-- ==== Sys2Proof/Word.lean ====
section
/-!
DEFINITION. The word types of EPD-SM: a byte (R9), the 16-bit row fields of a payload (R59, R84) and the level of a line (R9).
All other quantities are mathematical integers (R9, R138).
-/

namespace Sys2Proof

/-- A byte, an integer 0..255 (R9). -/
abbrev Byte := BitVec 8

/-- A two-byte payload field, sent low byte first (R59 (b)). -/
abbrev Word16 := BitVec 16

/-- The level of a line, 0 (low) or 1 (high) (R9). -/
inductive Level where
  | low
  | high
  deriving DecidableEq, Repr, Inhabited

end Sys2Proof
end

