-- ==== Sys2Proof/Config.lean ====
section
/-!
DEFINITION. The configuration record Cfg of R40 as plain data, the enumerations it is built from, the fixed geometry (R8, R40),
and the values the spec leaves open for good: opaque constants without a body. The defaults of R40 to R42 stand in
Machine/Params.lean.
-/

namespace Sys2Proof

/-- The bound RefreshMode, Full, Partial or Fast (R23). -/
inductive RefreshMode where
  | full
  | part
  | fast
  deriving DecidableEq, Repr, Inhabited

/-- The bound Orientation (R25). -/
inductive Orientation where
  | normal
  | inverted
  deriving DecidableEq, Repr, Inhabited

/-- The controller revision, fixed at construction (R2). -/
inductive Revision where
  | a
  | b
  deriving DecidableEq, Repr, Inhabited

/-- INIT_RESET_POLICY: when RUNINIT pulses reset (R40, R142). -/
inductive ResetPolicy where
  | ifHibernating
  | always
  deriving DecidableEq, Repr, Inhabited

/-- The names of the controller commands (R41); `lut i` is LUT0 to LUT4, present in REV B only. -/
inductive Command where
  | driverOutputControl
  | deepSleepMode
  | dataEntryMode
  | tempSensorControl
  | masterActivation
  | displayUpdateControl2
  | writeRam
  | writeRamRed
  | borderWaveform
  | setRamXWindow
  | setRamYWindow
  | setRamXCounter
  | setRamYCounter
  | terminate
  | lut (i : Fin 5)
  deriving DecidableEq, Repr, Inhabited

/-- One value for each RefreshMode: the `mode → …` fields of R40 as plain data. -/
structure PerMode (α : Type) where
  full : α
  part : α
  fast : α
  deriving DecidableEq, Repr, Inhabited

/-- The opcode map Cfg.OPC (R41) of the fourteen commands whose opcode is configuration. The LUT registers 0x20 to 0x24 are
fixed by the source and have no field. -/
structure OpcMap where
  driverOutputControl : Byte
  deepSleepMode : Byte
  dataEntryMode : Byte
  tempSensorControl : Byte
  masterActivation : Byte
  displayUpdateControl2 : Byte
  writeRam : Byte
  writeRamRed : Byte
  borderWaveform : Byte
  setRamXWindow : Byte
  setRamYWindow : Byte
  setRamXCounter : Byte
  setRamYCounter : Byte
  terminate : Byte
  deriving DecidableEq, Repr, Inhabited

/-- A CommandSequence, "an ordered list of (opcode, optional payload) pairs", its opcodes by name (R42). -/
abbrev CommandSeq := List (Command × Option (List Byte))

/-- The configuration record, fixed at construction and read-only afterwards (R40). -/
structure Cfg where
  rev : Revision
  hasCs : Bool
  hasBusy : Bool
  busyActiveA : Level
  busyActiveB : Level
  tDisplay : PerMode Nat
  tPon : PerMode Nat
  tPoff : PerMode Nat
  tSleepFinal : Nat
  pollMs : Nat
  noBusyStepMs : Nat
  resetLowMs : Nat
  resetPostMs : Nat
  initResetPolicy : ResetPolicy
  opc : OpcMap
  demNormal : Byte
  demInverted : Byte
  borderInit : Byte
  borderPartial : Byte
  ducPon : Byte
  ducPoff : Byte
  ducDisplay : PerMode Byte
  deepSleepEnter : Byte
  initSeq : PerMode CommandSeq
  lutFull : List (List Byte)
  lutPart : List (List Byte)
  deriving DecidableEq, Repr, Inhabited

namespace Config

/-- The BUSY level at the n-th poll when `State.busyIn` lists none for it: a free input under no law (R32, U10, log entry 4). -/
opaque busyLevel : Nat → Level

/-- Which bytes REV B's map gives its fourteen configurable commands: OPEN, any distinct ones (R41, D25, log entry 3). -/
opaque openOpcOrder : Equiv.Perm (Fin 251)

/-- The `k`-th of the 251 bytes outside the waveform registers 0x20 to 0x24. -/
def openOpcByte (k : Fin 251) : Byte :=
  BitVec.ofNat 8 (if (openOpcOrder k).val < 0x20 then (openOpcOrder k).val else (openOpcOrder k).val + 5)

/-- REV B's opcode map: OPEN within the limits R41 puts on it, injective and clear of 0x20 to 0x24 (log entry 3). -/
def openOpcB : OpcMap where
  driverOutputControl := openOpcByte 0
  deepSleepMode := openOpcByte 1
  dataEntryMode := openOpcByte 2
  tempSensorControl := openOpcByte 3
  masterActivation := openOpcByte 4
  displayUpdateControl2 := openOpcByte 5
  writeRam := openOpcByte 6
  writeRamRed := openOpcByte 7
  borderWaveform := openOpcByte 8
  setRamXWindow := openOpcByte 9
  setRamYWindow := openOpcByte 10
  setRamXCounter := openOpcByte 11
  setRamYCounter := openOpcByte 12
  terminate := openOpcByte 13

/-- The length less one of REV B's `i`-th table of LUT_FULL: OPEN, 1 to 56 bytes (R43, D33, log entry 3). -/
opaque openLutFullLen : Nat → Fin 56

/-- Byte `j` of REV B's `i`-th table of LUT_FULL: OPEN (R43, D33, log entry 3). -/
opaque openLutFullByte : Nat → Nat → Byte

/-- The length less one of REV B's `i`-th table of LUT_PART: OPEN, 1 to 56 bytes (R43, D33, log entry 3). -/
opaque openLutPartLen : Nat → Fin 56

/-- Byte `j` of REV B's `i`-th table of LUT_PART: OPEN (R43, D33, log entry 3). -/
opaque openLutPartByte : Nat → Nat → Byte

/-- Five tables of the given lengths and bytes (R43). -/
def fiveTables (len : Nat → Fin 56) (byte : Nat → Nat → Byte) : List (List Byte) :=
  (List.range 5).map (fun i => (List.range ((len i).val + 1)).map (byte i))

/-- REV B's LUT_FULL: five tables of 1 to 56 bytes, OPEN beyond that (R43, D33, log entry 3). -/
def openLutFull : List (List Byte) :=
  fiveTables openLutFullLen openLutFullByte

/-- REV B's LUT_PART: five tables of 1 to 56 bytes, OPEN beyond that (R43, D33, log entry 3). -/
def openLutPart : List (List Byte) :=
  fiveTables openLutPartLen openLutPartByte

/-- The controller's column counter after a data byte with AM = 1, from the registers of R58 (XS, XE, YS, YE, XC, YC, entry
mode): R58 gives the step for AM = 0 alone, so this is a free value (log entry 28). -/
opaque freeColumn (xs xe : Byte) (ys ye : Word16) (xc : Byte) (yc : Word16) (dem : Byte) : Byte

/-- The controller's row counter after a data byte with AM = 1: a free value like the column counter (log entry 28). -/
opaque freeRow (xs xe : Byte) (ys ye : Word16) (xc : Byte) (yc : Word16) (dem : Byte) : Word16

/-- WIDTH, "fixed width/height in pixels (200×200)" (R8). -/
abbrev width : Int := 200

/-- HEIGHT (R8). -/
abbrev height : Int := 200

/-- GRAN, the horizontal addressing granularity, one byte per 8 columns (R8, R51). -/
abbrev gran : Int := 8

/-- MAXCOL = WIDTH/8 − 1 (R8, R40). -/
abbrev maxCol : Int := width / gran - 1

/-- MAXROW = HEIGHT − 1 (R8, R40). -/
abbrev maxRow : Int := height - 1

end Config

end Sys2Proof
end

