-- ==== Sys2Proof/Syntax.lean ====
section
/-!
DEFINITION. The instructions of EPD-SM: one constructor per row of spec/opcode_table.json. The first fourteen are the
controller commands of REV A, the next fourteen those of REV B, then LUT0 to LUT4, then the host operations of R89. Beside
them, the form in which the host puts a call on the port and the reasons a call cannot be decoded.
-/

namespace Sys2Proof

/-- The operations of EPD-SM (R89, R90) and the controller commands it emits (R180 to R198). The operands of a command are
the fields of its payload (R81, R84); a two-byte field is one operand. Operands of host operations are mathematical integers
(R9, R21). -/
inductive Instr where
  -- controller commands, REV A
  | driverOutputControl (gates : Word16) (scan : Byte)
  | deepSleepMode (p0 : Byte)
  | dataEntryMode (dem : Byte)
  | tempSensorControl (p0 : Byte)
  | masterActivation
  | displayUpdateControl2 (duc : Byte)
  | writeRam (buf : List Byte)
  | writeRamRed (n : Nat)
  | borderWaveform (p0 : Byte)
  | setRamXWindow (cs ce : Byte)
  | setRamYWindow (rs re : Word16)
  | setRamXCounter (cs : Byte)
  | setRamYCounter (rs : Word16)
  | terminate
  -- controller commands, REV B
  | driverOutputControlB (gates : Word16) (scan : Byte)
  | deepSleepModeB (p0 : Byte)
  | dataEntryModeB (dem : Byte)
  | tempSensorControlB (p0 : Byte)
  | masterActivationB
  | displayUpdateControl2B (duc : Byte)
  | writeRamB (buf : List Byte)
  | writeRamRedB (n : Nat)
  | borderWaveformB (p0 : Byte)
  | setRamXWindowB (cs ce : Byte)
  | setRamYWindowB (rs re : Word16)
  | setRamXCounterB (cs : Byte)
  | setRamYCounterB (rs : Word16)
  | terminateB
  | lut0 (table : List Byte)
  | lut1 (table : List Byte)
  | lut2 (table : List Byte)
  | lut3 (table : List Byte)
  | lut4 (table : List Byte)
  -- host operations
  | init
  | setmode (mode : RefreshMode)
  | setorient (o : Orientation)
  | setframe (buf : List Byte) (x y w h : Int)
  | display
  | refresh (x y w h : Int)
  | clear (fill : Byte)
  | hibernate
  | sleep
  | waitidle (t : Int)
  | reset
  | pwron
  | pwroff
  | sendcmd (op : Byte) (payload : Option (List Byte))
  deriving DecidableEq, Repr, Inhabited

/-- One call the host has put on the port, as bytes with an explicit end (log entries 8, 9, 11).
`host`: a host operation, its selector (R90) and its operand bytes.
`frame`: a SENDCMD call spelled as the frame it sends, the opcode byte and the payload (R80). -/
inductive Request where
  | host (bytes : List Byte)
  | frame (bytes : List Byte)
  deriving DecidableEq, Repr, Inhabited

/-- Why a call has no decoding. Each is a refusal of R11 or R92, or a byte string outside the model's own operand layout. -/
inductive DecodeError where
  /-- No byte at all: no selector, no opcode. -/
  | emptyRequest
  /-- Selectors 0x0A to 0x0F and 0x14 to 0xFF name no operation (R90, R92, U6). -/
  | unassignedSelector (sel : Byte)
  /-- A mode other than Full = 0, Partial = 1, Fast = 2 (R92, U6). -/
  | modeOutsideEnum (b : Byte)
  /-- An orientation other than Normal = 0, Inverted = 1 (R92, U6). -/
  | orientOutsideEnum (b : Byte)
  /-- The operand bytes end too early (log entry 9). -/
  | missingOperand
  /-- Bytes are left over after the last operand (log entry 9). -/
  | trailingBytes
  /-- SENDCMD's presence byte is neither 0 (absent) nor 1 (present) (log entry 9). -/
  | badPresence (b : Byte)
  deriving DecidableEq, Repr, Inhabited

end Sys2Proof
end

