-- ==== Sys2Proof/Machine/Params.lean ====
section
/-!
DEFINITION. Reading the configuration (R8, R40, R41), its default values, and the operand domains of R21, R81 and R131. The values that the source does not give are the
spec's own defaults (92_eei_decisions.md), most of them from general knowledge (93_implementation_defined.md Part 2); log
entry 2 lists them.
-/

namespace Sys2Proof

/-- The value of a per-mode parameter for mode `m` (R40). -/
def PerMode.get {α : Type} (p : PerMode α) : RefreshMode → α
  | .full => p.full
  | .part => p.part
  | .fast => p.fast

/-- The opcode byte of a command (R41): fourteen are configuration, LUT registers are 0x20 to 0x24 by the source. -/
def OpcMap.byte (m : OpcMap) : Command → Byte
  | .driverOutputControl => m.driverOutputControl
  | .deepSleepMode => m.deepSleepMode
  | .dataEntryMode => m.dataEntryMode
  | .tempSensorControl => m.tempSensorControl
  | .masterActivation => m.masterActivation
  | .displayUpdateControl2 => m.displayUpdateControl2
  | .writeRam => m.writeRam
  | .writeRamRed => m.writeRamRed
  | .borderWaveform => m.borderWaveform
  | .setRamXWindow => m.setRamXWindow
  | .setRamYWindow => m.setRamYWindow
  | .setRamXCounter => m.setRamXCounter
  | .setRamYCounter => m.setRamYCounter
  | .terminate => m.terminate
  | .lut i => BitVec.ofNat 8 (0x20 + i.val)

/-- `Cfg.OPC[NAME]` (R41, R82). -/
def Cfg.opcode (c : Cfg) (n : Command) : Byte :=
  c.opc.byte n

/-- The fourteen commands both revisions have (R41). -/
def Command.common : List Command :=
  [.driverOutputControl, .deepSleepMode, .dataEntryMode, .tempSensorControl, .masterActivation, .displayUpdateControl2,
   .writeRam, .writeRamRed, .borderWaveform, .setRamXWindow, .setRamYWindow, .setRamXCounter, .setRamYCounter, .terminate]

/-- LUT0 to LUT4, in ascending register order (R143). -/
def Command.luts : List Command :=
  [.lut 0, .lut 1, .lut 2, .lut 3, .lut 4]

/-- The names a revision's opcode map has: 14 for REV A, 14 + 5 for REV B (R41, R50). -/
def Cfg.commands (c : Cfg) : List Command :=
  match c.rev with
  | .a => Command.common
  | .b => Command.luts ++ Command.common

/-- `Cfg.BUSY_ACTIVE[Cfg.REV]`, the raw BUSY level that means busy (R104, R119). -/
def Cfg.busyActive (c : Cfg) : Level :=
  match c.rev with
  | .a => c.busyActiveA
  | .b => c.busyActiveB

/-- `busy(v)`, the BUSY level normalized "into a single boolean" (R32). -/
def Cfg.isBusy (c : Cfg) (v : Level) : Bool :=
  v == c.busyActive

/-- The entry-mode value that matches an orientation's scan direction (R85, R182). -/
def Cfg.dem (c : Cfg) : Orientation → Byte
  | .normal => c.demNormal
  | .inverted => c.demInverted

/-- The five LUT pairs of an initialization, ascending (R42 (b), R143). -/
def lutPairs (tables : List (List Byte)) : CommandSeq :=
  List.zipWith (fun n t => (n, some t)) Command.luts tables

/-- REV A's default opcode map (R41). -/
def OpcMap.defaultA : OpcMap where
  driverOutputControl := 0x01
  deepSleepMode := 0x10
  dataEntryMode := 0x11
  tempSensorControl := 0x18
  masterActivation := 0x20
  displayUpdateControl2 := 0x22
  writeRam := 0x24
  writeRamRed := 0x26
  borderWaveform := 0x3C
  setRamXWindow := 0x44
  setRamYWindow := 0x45
  setRamXCounter := 0x4E
  setRamYCounter := 0x4F
  terminate := 0xFF

/-- REV A's default initialization sequence, the same for all three modes (R42, R180, R183, R188). -/
def initSeqA (borderInit : Byte) : CommandSeq :=
  [(.driverOutputControl, some [0xC7, 0x00, 0x00]), (.borderWaveform, some [borderInit]), (.tempSensorControl, some [0x80])]

/-- The default configuration (R40 to R42): REV A, no chip-select line, a busy line. R40 leaves HAS_CS and HAS_BUSY open;
the values here are the convention of 95_test_vectors.md (log entry 1). BORDER_INIT and INIT_SEQ are independent
parameters; here INIT_SEQ's border frame holds the same 0x05 (log entry 29). -/
def Cfg.default : Cfg where
  rev := .a
  hasCs := false
  hasBusy := true
  busyActiveA := .high
  busyActiveB := .low
  tDisplay := ⟨2200, 300, 1100⟩
  tPon := ⟨100, 100, 100⟩
  tPoff := ⟨150, 150, 150⟩
  tSleepFinal := 100
  pollMs := 10
  noBusyStepMs := 100
  resetLowMs := 100
  resetPostMs := 100
  initResetPolicy := .ifHibernating
  opc := OpcMap.defaultA
  demNormal := 0x03
  demInverted := 0x00
  borderInit := 0x05
  borderPartial := 0x80
  ducPon := 0xE0
  ducPoff := 0x83
  ducDisplay := ⟨0xF7, 0xFC, 0xC7⟩
  deepSleepEnter := 0x01
  initSeq := ⟨initSeqA 0x05, initSeqA 0x05, initSeqA 0x05⟩
  lutFull := []
  lutPart := []

/-- REV B with the defaults of R40 and the three parameters that have none taken as arguments (R41, R42, R43): the five LUT
pairs and nothing else as initialization, the full set for Fast too (R143). -/
def Cfg.revB (opc : OpcMap) (lutFull lutPart : List (List Byte)) : Cfg :=
  { Cfg.default with
    rev := .b
    opc := opc
    initSeq := ⟨lutPairs lutFull, lutPairs lutPart, lutPairs lutFull⟩
    lutFull := lutFull
    lutPart := lutPart }

/-- The configuration of each revision that the opcode table's rows are read under (log entries 3, 10). -/
def Cfg.ofRevision : Revision → Cfg
  | .a => Cfg.default
  | .b => Cfg.revB Config.openOpcB Config.openLutFull Config.openLutPart

/-- The payload lengths each format admits (R81, R83): CMD none, CMD_P1 to CMD_P4 exactly that many bytes, CMD_PV at least one,
a LUT table at most 56. -/
def Command.payloadOk (n : Command) (p : Option (List Byte)) : Bool :=
  match n with
  | .masterActivation | .terminate => p.isNone
  | .deepSleepMode | .dataEntryMode | .tempSensorControl | .displayUpdateControl2 | .borderWaveform | .setRamXCounter =>
    p.any (fun l => l.length == 1)
  | .setRamXWindow | .setRamYCounter => p.any (fun l => l.length == 2)
  | .driverOutputControl => p.any (fun l => l.length == 3)
  | .setRamYWindow => p.any (fun l => l.length == 4)
  | .writeRam | .writeRamRed => p.any (fun l => 1 ≤ l.length)
  | .lut _ => p.any (fun l => 1 ≤ l.length && l.length ≤ 56)

/-- The admitted domain of SETFRAME's rectangle (R131). -/
def frameDomain (x y w h : Int) : Bool :=
  0 ≤ x && x < Config.width && 0 ≤ y && y < Config.height && 8 ≤ w && 1 ≤ h

/-- A payload that is present has at least one byte (R21, R101). -/
def payloadPresent (p : Option (List Byte)) : Bool :=
  p != some []

end Sys2Proof
end

