-- ==== Sys2Proof/Machine/State.lean ====
section
/-!
DEFINITION. The state of EPD-SM: the record S of R22, the sequencer position of R24 (a), the configuration it was constructed
with, and the inputs that have not been taken yet. Also the state after construction (R44, R230) and the reasons a step can
stop. EPD-SM has no general register file (R20) and no memory of its own (R50).
-/

namespace Sys2Proof.Machine

open Sys2Proof

/-- The tracked power state of the controller, `S.POWER` (R26). -/
inductive Power where
  | off
  | on
  deriving DecidableEq, Repr, Inhabited

/-- An output line (R10, R33). -/
inductive Line where
  | dc
  | cs
  | rst
  deriving DecidableEq, Repr, Inhabited

/-- An event of the trace (R33). -/
inductive Event where
  /-- An output line driven to a level. -/
  | line (l : Line) (v : Level)
  /-- One bus write transaction. -/
  | bus (bytes : List Byte)
  /-- One read of BUSY, with the level read. -/
  | poll (v : Level)
  /-- Time allowed to pass. -/
  | sleep (ms : Nat)
  deriving DecidableEq, Repr, Inhabited

/-- The state of EPD-SM. The first twelve fields are S of R22. -/
structure State where
  /-- S.MODE, the bound RefreshMode (R23). -/
  mode : RefreshMode
  /-- S.ORIENT, the bound Orientation (R25). -/
  orient : Orientation
  /-- S.POWER, the tracked power state (R26). -/
  power : Power
  /-- S.HIB, the Hibernating flag (R27). -/
  hib : Bool
  /-- S.INITED (R28). -/
  inited : Bool
  /-- S.INITMODE, meaningful only while INITED = 1 (R28, U11). -/
  initMode : RefreshMode
  /-- S.PLATCH, the partial-mode latch; no rule reads it (R29). -/
  platch : Bool
  /-- S.FIRST, the one-time flag of REFRESH (R30). -/
  first : Bool
  /-- S.DC, the level last driven, `none` while unwritten (R31, U12). -/
  dc : Option Level
  /-- S.CS, the level last driven, `none` while unwritten (R31, U12). -/
  cs : Option Level
  /-- S.RST, the level last driven (R31). -/
  rst : Level
  /-- S.TRACE, oldest event first (R33). Its length is the position inside an operation (R24 (b)). -/
  trace : List Event
  /-- How many of the host's operations have completed (R24 (a)). -/
  pos : Nat
  /-- The configuration, fixed at construction (R40). No step changes it. -/
  cfg : Cfg
  /-- Input, the model's own field: the host's calls that have not been taken, first to be taken first (log entry 8). -/
  port : List Request
  /-- Input, the model's own field: the levels BUSY has at the next polls (R32, log entry 4). -/
  busyIn : List Level
  /-- The model's own field: how many polls have been made, the index of the free BUSY level (log entry 4). -/
  polls : Nat
  deriving DecidableEq, Repr

/-- EPD-SM raises no exception: "the set of cause codes is empty" (R210). No step faults. -/
inductive Fault where
  deriving DecidableEq, Repr

/-- Why a step has no meaning (R11, R212). Every one is safe: the model stops where the block does something the spec does not
determine. -/
inductive Refusal where
  /-- An instruction this model gives no meaning; raised by `exec` alone, and by no arm of it now. Safe. -/
  | notModelled (mnemonic : String)
  /-- Raised by `step`: the call on the port has no decoding (R92, U6; log entry 9 for the layout's own errors). Safe. -/
  | undecodable (e : DecodeError)
  /-- Raised by a command row of the other revision: this machine's opcode map has no such entry (R2, R41, log entry 12). Safe. -/
  | notInRevision
  /-- Raised by a command row whose payload is not of its format: WRITE_RAM, WRITE_RAM_RED without a byte, a LUT outside 1 to
  56 bytes (R81, R101). Safe. -/
  | payloadOutsideFormat
  /-- Raised by SENDCMD: a payload that is present but empty (R101, U5). Safe. -/
  | emptyPayload
  /-- Raised by SETFRAME: a buffer without a byte (R21). Safe. -/
  | emptyBuffer
  /-- Raised by SETFRAME: a rectangle outside the domain of R131 (U4). Safe. -/
  | geometryOutsideDomain
  /-- Raised by WAITIDLE: a negative time (R110, U8). Safe. -/
  | negativeTimeout
  /-- Raised by PWRON while HIB = 1 (R113, U9). Safe. -/
  | powerOnWhileHibernating
  deriving DecidableEq, Repr

/-- The state after construction with configuration `c` (R44, R230): no event (R231), the lines unwritten but RST at its
inactive level. INITMODE is unspecified; Full is this model's choice (log entry 5). -/
def State.construct (c : Cfg) : State where
  mode := .full
  orient := .normal
  power := .off
  hib := true
  inited := false
  initMode := .full
  platch := false
  first := true
  dc := none
  cs := none
  rst := .high
  trace := []
  pos := 0
  cfg := c
  port := []
  busyIn := []
  polls := 0

/-- The machine right after construction with the default configuration (R44, log entry 1). -/
def State.reset : State :=
  State.construct Cfg.default

end Sys2Proof.Machine
end

