-- ==== Sys2Proof/Machine/Flags.lean ====
section
/-!
DEFINITION. The flags of EPD-SM are the one-bit fields of S; there are no arithmetic condition codes (R38). Each operation here
is one row of R38's "set by" and "cleared by" columns, with the tests that read the flags (R141, R142) and the view of (POWER,
HIB) as a three-valued power state (R35).
-/

namespace Sys2Proof.Machine

open Sys2Proof

/-- What RESETPULSE does to the four tracking fields (R103, R233). -/
def State.clearTracking (s : State) : State :=
  { s with hib := false, inited := false, power := .off, platch := false }

/-- What HIBERNATE records (R116). -/
def State.markHibernating (s : State) : State :=
  { s with hib := true, inited := false }

/-- What RUNINIT records: Initialized(MODE), and the latch in Partial mode (R142, R29). -/
def State.markInitialized (s : State) : State :=
  { s with inited := true, initMode := s.mode, platch := if s.mode = .part then true else s.platch }

/-- Initialized under the bound mode and not hibernated since: the condition under which ENSUREINIT skips RUNINIT (R141). -/
def State.isInitialized (s : State) : Bool :=
  s.inited && s.initMode == s.mode && !s.hib

/-- Whether RUNINIT pulses reset first (R142). -/
def State.needsPulse (s : State) : Bool :=
  s.cfg.initResetPolicy == .always || s.hib

/-- The three-valued "PowerState: enum {Off, On, Hibernating}" (R35). -/
inductive PowerState where
  | off
  | on
  | hibernating
  deriving DecidableEq, Repr

/-- The view of the pair (POWER, HIB); the fourth pair (On, 1) is unreachable and has none (R35). -/
def State.powerState (s : State) : Option PowerState :=
  match s.power, s.hib with
  | .on, false => some .on
  | .off, false => some .off
  | .off, true => some .hibernating
  | .on, true => none

end Sys2Proof.Machine
end

