-- ==== Sys2Proof/WellFormed.lean ====
section
/-!
DEFINITION. What is checked before a term means anything: the admitted domain of every operand (R21, R81, R131), the revision a
command belongs to (R41), and the constraints on a configuration (R40 to R43).
-/

namespace Sys2Proof

/-- The operands of an instruction lie in the domain the spec admits (R21, R81). -/
def Instr.wellFormed : Instr → Bool
  | .writeRam buf | .writeRamB buf => buf != []
  | .writeRamRed n | .writeRamRedB n => 1 ≤ n
  | .lut0 t | .lut1 t | .lut2 t | .lut3 t | .lut4 t => 1 ≤ t.length && t.length ≤ 56
  | .setframe buf x y w h => buf != [] && frameDomain x y w h
  | .waitidle t => 0 ≤ t
  | .sendcmd _ p => payloadPresent p
  | _ => true

/-- The revision a command row belongs to, none for a host operation ("A and B" in the opcode table). -/
def Instr.revision : Instr → Option Revision
  | .driverOutputControl .. | .deepSleepMode .. | .dataEntryMode .. | .tempSensorControl .. | .masterActivation
  | .displayUpdateControl2 .. | .writeRam .. | .writeRamRed .. | .borderWaveform .. | .setRamXWindow .. | .setRamYWindow ..
  | .setRamXCounter .. | .setRamYCounter .. | .terminate => some .a
  | .driverOutputControlB .. | .deepSleepModeB .. | .dataEntryModeB .. | .tempSensorControlB .. | .masterActivationB
  | .displayUpdateControl2B .. | .writeRamB .. | .writeRamRedB .. | .borderWaveformB .. | .setRamXWindowB .. | .setRamYWindowB ..
  | .setRamXCounterB .. | .setRamYCounterB .. | .terminateB
  | .lut0 .. | .lut1 .. | .lut2 .. | .lut3 .. | .lut4 .. => some .b
  | .init | .setmode .. | .setorient .. | .setframe .. | .display | .refresh .. | .clear .. | .hibernate | .sleep | .waitidle ..
  | .reset | .pwron | .pwroff | .sendcmd .. => none

/-- The machine's revision has this instruction: a command row exists in its own revision only (R2, R41). -/
def Instr.inRevision (i : Instr) (c : Cfg) : Bool :=
  i.revision.all (fun r => r == c.rev)

/-- A pair of a CommandSequence names a command of the revision with a payload of its format (R42 (c)). -/
def Cfg.pairOk (c : Cfg) (p : Command × Option (List Byte)) : Bool :=
  c.commands.contains p.1 && p.1.payloadOk p.2

/-- The five waveform tables of a set, "up to 56 bytes each" (R43). -/
def lutTablesOk (tables : List (List Byte)) : Bool :=
  tables.length == 5 && tables.all (fun t => 1 ≤ t.length && t.length ≤ 56)

/-- The command is a waveform register. -/
def Command.isLut : Command → Bool
  | .lut _ => true
  | _ => false

/-- A sequence loads exactly these tables: its waveform frames are one for each table, in ascending register order (R143, D33).
Other frames may stand anywhere (R42, log entry 23). -/
def loadsTables (q : CommandSeq) (tables : List (List Byte)) : Bool :=
  lutTablesOk tables && q.filter (fun p => p.1.isLut) == lutPairs tables

/-- The constraints of R40 to R43 and R143: the opcode map is injective (and so keeps clear of 0x20 to 0x24 on REV B), the busy
polarities differ, the intervals are positive, the reset pulse is at least 100 ms, every initialization uses the revision's own
commands, and REV B's Full and Partial initializations load their five tables in ascending register order. -/
def Cfg.wellFormed (c : Cfg) : Bool :=
  decide ((c.commands.map c.opcode).Nodup)
    && c.busyActiveA != c.busyActiveB
    && decide (0 < c.pollMs) && decide (0 < c.noBusyStepMs) && decide (100 ≤ c.resetLowMs)
    && c.initSeq.full.all c.pairOk && c.initSeq.part.all c.pairOk && c.initSeq.fast.all c.pairOk
    && (match c.rev with
        | .a => true
        | .b => loadsTables c.initSeq.full c.lutFull && loadsTables c.initSeq.part c.lutPart)

end Sys2Proof
end

