-- ==== Sys2Proof/Decode.lean ====
section
/-!
DEFINITION. Decoding and encoding. A controller command is a frame: its opcode byte by Cfg.OPC, then its payload, low byte of a
row field first (R59, R80 to R85). A host operation is its selector (R90) and operand bytes in the model's own layout, since
the spec gives none (R89, N22, log entry 9). Both directions stand here, and the reading of the opcode table's words.
-/

namespace Sys2Proof

/-- `lo8(v) = v mod 256` (R9). -/
def lo8 (v : Int) : Byte :=
  BitVec.ofInt 8 v

/-- `hi8(v) = (v / 256) mod 256` (R9). -/
def hi8 (v : Int) : Byte :=
  BitVec.ofInt 8 (v / 256)

/-- A two-byte field on the bus, `[lo8(v), hi8(v)]` (R59 (b), R84). -/
def rowBytes (v : Int) : List Byte :=
  [lo8 v, hi8 v]

/-- The two-byte field read back from its bytes. -/
def rowOf (lo hi : Byte) : Word16 :=
  hi ++ lo

/-! ### Controller commands -/

/-- The command and the payload a command row stands for (R81, R83 to R85, R180 to R198); none for a host operation. -/
def Instr.command : Instr → Option (Command × Option (List Byte))
  | .driverOutputControl gates scan | .driverOutputControlB gates scan =>
    some (.driverOutputControl, some (rowBytes gates.toNat ++ [scan]))
  | .deepSleepMode p0 | .deepSleepModeB p0 => some (.deepSleepMode, some [p0])
  | .dataEntryMode dem | .dataEntryModeB dem => some (.dataEntryMode, some [dem])
  | .tempSensorControl p0 | .tempSensorControlB p0 => some (.tempSensorControl, some [p0])
  | .masterActivation | .masterActivationB => some (.masterActivation, none)
  | .displayUpdateControl2 duc | .displayUpdateControl2B duc => some (.displayUpdateControl2, some [duc])
  | .writeRam buf | .writeRamB buf => some (.writeRam, some buf)
  | .writeRamRed n | .writeRamRedB n => some (.writeRamRed, some (List.replicate n 0x00))
  | .borderWaveform p0 | .borderWaveformB p0 => some (.borderWaveform, some [p0])
  | .setRamXWindow cs ce | .setRamXWindowB cs ce => some (.setRamXWindow, some [cs, ce])
  | .setRamYWindow rs re | .setRamYWindowB rs re => some (.setRamYWindow, some (rowBytes rs.toNat ++ rowBytes re.toNat))
  | .setRamXCounter cs | .setRamXCounterB cs => some (.setRamXCounter, some [cs])
  | .setRamYCounter rs | .setRamYCounterB rs => some (.setRamYCounter, some (rowBytes rs.toNat))
  | .terminate | .terminateB => some (.terminate, none)
  | .lut0 t => some (.lut 0, some t)
  | .lut1 t => some (.lut 1, some t)
  | .lut2 t => some (.lut 2, some t)
  | .lut3 t => some (.lut 3, some t)
  | .lut4 t => some (.lut 4, some t)
  | .init | .setmode .. | .setorient .. | .setframe .. | .display | .refresh .. | .clear .. | .hibernate | .sleep | .waitidle ..
  | .reset | .pwron | .pwroff | .sendcmd .. => none

/-- The constructor for one of the two revisions. -/
def Revision.pick {α : Type} (rev : Revision) (a b : α) : α :=
  match rev with
  | .a => a
  | .b => b

/-- The command row that command `n` of revision `rev` with this payload is; none where the payload is not of the command's
format (R81), not all zeros for the red plane (R52), or the revision has no such register (R41). -/
def Command.toInstr (rev : Revision) (n : Command) (payload : List Byte) : Option Instr :=
  match n with
  | .driverOutputControl =>
    match payload with
    | [lo, hi, scan] => some (rev.pick (.driverOutputControl (rowOf lo hi) scan) (.driverOutputControlB (rowOf lo hi) scan))
    | _ => none
  | .deepSleepMode =>
    match payload with
    | [p0] => some (rev.pick (.deepSleepMode p0) (.deepSleepModeB p0))
    | _ => none
  | .dataEntryMode =>
    match payload with
    | [p0] => some (rev.pick (.dataEntryMode p0) (.dataEntryModeB p0))
    | _ => none
  | .tempSensorControl =>
    match payload with
    | [p0] => some (rev.pick (.tempSensorControl p0) (.tempSensorControlB p0))
    | _ => none
  | .masterActivation =>
    match payload with
    | [] => some (rev.pick .masterActivation .masterActivationB)
    | _ => none
  | .displayUpdateControl2 =>
    match payload with
    | [p0] => some (rev.pick (.displayUpdateControl2 p0) (.displayUpdateControl2B p0))
    | _ => none
  | .writeRam =>
    match payload with
    | [] => none
    | buf => some (rev.pick (.writeRam buf) (.writeRamB buf))
  | .writeRamRed =>
    if payload != [] && payload.all (fun b => b == 0x00) then
      some (rev.pick (.writeRamRed payload.length) (.writeRamRedB payload.length))
    else none
  | .borderWaveform =>
    match payload with
    | [p0] => some (rev.pick (.borderWaveform p0) (.borderWaveformB p0))
    | _ => none
  | .setRamXWindow =>
    match payload with
    | [cs, ce] => some (rev.pick (.setRamXWindow cs ce) (.setRamXWindowB cs ce))
    | _ => none
  | .setRamYWindow =>
    match payload with
    | [slo, shi, elo, ehi] =>
      some (rev.pick (.setRamYWindow (rowOf slo shi) (rowOf elo ehi)) (.setRamYWindowB (rowOf slo shi) (rowOf elo ehi)))
    | _ => none
  | .setRamXCounter =>
    match payload with
    | [cs] => some (rev.pick (.setRamXCounter cs) (.setRamXCounterB cs))
    | _ => none
  | .setRamYCounter =>
    match payload with
    | [lo, hi] => some (rev.pick (.setRamYCounter (rowOf lo hi)) (.setRamYCounterB (rowOf lo hi)))
    | _ => none
  | .terminate =>
    match payload with
    | [] => some (rev.pick .terminate .terminateB)
    | _ => none
  | .lut i =>
    if 1 ≤ payload.length && payload.length ≤ 56 then
      match rev, i with
      | .a, _ => none
      | .b, 0 => some (.lut0 payload)
      | .b, 1 => some (.lut1 payload)
      | .b, 2 => some (.lut2 payload)
      | .b, 3 => some (.lut3 payload)
      | .b, 4 => some (.lut4 payload)
    else none

/-- The command whose opcode in this configuration's map is `op` (R41, R82, R88). -/
def Cfg.commandAt (c : Cfg) (op : Byte) : Option Command :=
  c.commands.find? (fun n => c.opcode n == op)

/-- The payload argument of a SENDCMD call that sends these payload bytes: absent where there are none (R101). -/
def payloadArg : List Byte → Option (List Byte)
  | [] => none
  | p => some p

/-- A SENDCMD call spelled as its frame. An opcode outside the map, or a payload that is not of the command's format, is not
rejected: "EPD-SM frames it without inspecting it" (R92), so the call is the plain SENDCMD (log entry 11). -/
def decodeFrame (c : Cfg) : List Byte → Except DecodeError Instr
  | [] => .error .emptyRequest
  | op :: payload =>
    match (c.commandAt op).bind (fun n => n.toInstr c.rev payload) with
    | some i => .ok i
    | none => .ok (.sendcmd op (payloadArg payload))

/-! ### Host operations -/

/-- The bytes of a natural number, seven bits each, least significant first, bit 7 set on all but the last (log entry 9).
`fuel` bounds the number of bytes less one. -/
def encodeNatFuel : Nat → Nat → List Byte
  | 0, n => [BitVec.ofNat 8 n]
  | fuel + 1, n => if n < 128 then [BitVec.ofNat 8 n] else BitVec.ofNat 8 (n % 128 + 128) :: encodeNatFuel fuel (n / 128)

/-- The bytes of a natural number. -/
def encodeNat (n : Nat) : List Byte :=
  encodeNatFuel n n

/-- A natural number read from the front of a byte list, with the bytes after it. -/
def decodeNat : List Byte → Option (Nat × List Byte)
  | [] => none
  | b :: bs =>
    if b.toNat < 128 then some (b.toNat, bs)
    else (decodeNat bs).map (fun p => (b.toNat - 128 + 128 * p.1, p.2))

/-- An integer as a natural number: 0, −1, 1, −2, … are 0, 1, 2, 3, … (log entry 9). -/
def zigzag (v : Int) : Nat :=
  if 0 ≤ v then 2 * v.toNat else 2 * (-v).toNat - 1

/-- The integer a natural number stands for. -/
def unzigzag (n : Nat) : Int :=
  if n % 2 = 0 then (n / 2 : Nat) else -((n / 2 + 1 : Nat) : Int)

/-- The bytes of an integer operand. -/
def encodeInt (v : Int) : List Byte :=
  encodeNat (zigzag v)

/-- An integer operand read from the front of a byte list. -/
def decodeInt (bs : List Byte) : Option (Int × List Byte) :=
  (decodeNat bs).map (fun p => (unzigzag p.1, p.2))

/-- Four integer operands read from the front of a byte list. -/
def decodeInts4 (bs : List Byte) : Option (Int × Int × Int × Int × List Byte) :=
  (decodeInt bs).bind fun x => (decodeInt x.2).bind fun y => (decodeInt y.2).bind fun w => (decodeInt w.2).map fun h =>
    (x.1, y.1, w.1, h.1, h.2)

/-- An operation without operands takes no operand byte. -/
def noOperands (i : Instr) : List Byte → Except DecodeError Instr
  | [] => .ok i
  | _ :: _ => .error .trailingBytes

/-- An operation with one operand byte. -/
def byteOperand (k : Byte → Except DecodeError Instr) : List Byte → Except DecodeError Instr
  | [] => .error .missingOperand
  | [b] => k b
  | _ :: _ :: _ => .error .trailingBytes

/-- SETMODE's operand, Full = 0, Partial = 1, Fast = 2; "any other value is refused" (R90, R92, R161). -/
def modeOperand (b : Byte) : Except DecodeError Instr :=
  match b.toNat with
  | 0 => .ok (.setmode .full)
  | 1 => .ok (.setmode .part)
  | 2 => .ok (.setmode .fast)
  | _ => .error (.modeOutsideEnum b)

/-- SETORIENT's operand, Normal = 0, Inverted = 1; "any other value is refused" (R90, R92, R162). -/
def orientOperand (b : Byte) : Except DecodeError Instr :=
  match b.toNat with
  | 0 => .ok (.setorient .normal)
  | 1 => .ok (.setorient .inverted)
  | _ => .error (.orientOutsideEnum b)

/-- SETFRAME's operands: x, y, w − 8, h − 1 (so that zero operand bytes are the smallest admitted window at the origin), then
the buffer's bytes to the end of the call (log entry 9). -/
def frameOperands (bs : List Byte) : Except DecodeError Instr :=
  match decodeInts4 bs with
  | none => .error .missingOperand
  | some (x, y, w, h, buf) => .ok (.setframe buf x y (w + 8) (h + 1))

/-- REFRESH's operands: x, y, w, h, nothing after them. -/
def refreshOperands (bs : List Byte) : Except DecodeError Instr :=
  match decodeInts4 bs with
  | none => .error .missingOperand
  | some (x, y, w, h, rest) => noOperands (.refresh x y w h) rest

/-- WAITIDLE's operand: T, nothing after it. -/
def waitOperands (bs : List Byte) : Except DecodeError Instr :=
  match decodeInt bs with
  | none => .error .missingOperand
  | some (t, rest) => noOperands (.waitidle t) rest

/-- SENDCMD's operands: the opcode, 0 for an absent or 1 for a present payload, then the payload's bytes to the end of the
call. A payload that is present but empty decodes; the operation refuses it (R101). -/
def sendcmdOperands : List Byte → Except DecodeError Instr
  | op :: present :: payload =>
    match present.toNat with
    | 0 => noOperands (.sendcmd op none) payload
    | 1 => .ok (.sendcmd op (some payload))
    | _ => .error (.badPresence present)
  | _ => .error .missingOperand

/-- A host operation by its selector (R90). -/
def decodeHost : List Byte → Except DecodeError Instr
  | [] => .error .emptyRequest
  | sel :: ops =>
    match sel.toNat with
    | 0x00 => noOperands .init ops
    | 0x01 => byteOperand modeOperand ops
    | 0x02 => byteOperand orientOperand ops
    | 0x03 => frameOperands ops
    | 0x04 => noOperands .display ops
    | 0x05 => refreshOperands ops
    | 0x06 => byteOperand (fun b => .ok (.clear b)) ops
    | 0x07 => noOperands .hibernate ops
    | 0x08 => noOperands .sleep ops
    | 0x09 => waitOperands ops
    | 0x10 => noOperands .reset ops
    | 0x11 => noOperands .pwron ops
    | 0x12 => noOperands .pwroff ops
    | 0x13 => sendcmdOperands ops
    | _ => .error (.unassignedSelector sel)

/-- The instruction a call on the port stands for, in configuration `c`. -/
def decode (c : Cfg) : Request → Except DecodeError Instr
  | .host bytes => decodeHost bytes
  | .frame bytes => decodeFrame c bytes

/-! ### Encoding -/

/-- The number of a mode (R90). -/
def RefreshMode.number : RefreshMode → Byte
  | .full => 0
  | .part => 1
  | .fast => 2

/-- The number of an orientation (R90). -/
def Orientation.number : Orientation → Byte
  | .normal => 0
  | .inverted => 1

/-- The selector of a host operation (R90); 0x13, SENDCMD, for a command row, which is a SENDCMD call (log entry 11). -/
def Instr.selector : Instr → Byte
  | .init => 0x00
  | .setmode .. => 0x01
  | .setorient .. => 0x02
  | .setframe .. => 0x03
  | .display => 0x04
  | .refresh .. => 0x05
  | .clear .. => 0x06
  | .hibernate => 0x07
  | .sleep => 0x08
  | .waitidle .. => 0x09
  | .reset => 0x10
  | .pwron => 0x11
  | .pwroff => 0x12
  | _ => 0x13

/-- The operand bytes of a host operation (log entry 9). -/
def Instr.operandBytes : Instr → List Byte
  | .setmode m => [m.number]
  | .setorient o => [o.number]
  | .setframe buf x y w h => encodeInt x ++ (encodeInt y ++ (encodeInt (w - 8) ++ (encodeInt (h - 1) ++ buf)))
  | .refresh x y w h => encodeInt x ++ (encodeInt y ++ (encodeInt w ++ encodeInt h))
  | .clear fill => [fill]
  | .waitidle t => encodeInt t
  | .sendcmd op none => [op, 0]
  | .sendcmd op (some p) => op :: 1 :: p
  | _ => []

/-- The call that stands for an instruction in configuration `c`: a frame for a command row, selector and operands for a host
operation. -/
def encode (c : Cfg) (i : Instr) : Request :=
  match i.command with
  | some (n, p) => .frame (c.opcode n :: p.getD [])
  | none => .host (i.selector :: i.operandBytes)

/-! ### The opcode table's words -/

/-- The first `k` bytes of a word, least significant first. -/
def wordBytes : Nat → Nat → List Byte
  | 0, _ => []
  | k + 1, w => BitVec.ofNat 8 w :: wordBytes k (w / 256)

/-- How many operand bytes a host operation has when every operand bit is zero: a buffer has at least one byte. -/
def zeroOperands (sel : Byte) : Nat :=
  match sel.toNat with
  | 0x01 | 0x02 | 0x06 | 0x09 => 1
  | 0x03 => 5
  | 0x05 => 4
  | 0x13 => 2
  | _ => 0

/-- The least payload length of a command's format (R81). -/
def Command.minPayload : Command → Nat
  | .masterActivation | .terminate => 0
  | .setRamXWindow | .setRamYCounter => 2
  | .driverOutputControl => 3
  | .setRamYWindow => 4
  | _ => 1

/-- The bytes of a table word with zero bytes after them, `len` bytes in all or the word's own if it has more. -/
def padWord (nbits w len : Nat) : List Byte :=
  let bytes := wordBytes (nbits / 8) w
  bytes ++ List.replicate (len - bytes.length) 0x00

/-- A table word as a frame of revision `rev`, by that revision's map among the names `names`. -/
def tableFrame (rev : Revision) (names : List Command) (nbits w : Nat) : Option (Option Revision × Request) :=
  (names.find? (fun n => (Cfg.ofRevision rev).opcode n == BitVec.ofNat 8 w)).map fun n =>
    (some rev, .frame (padWord nbits w (1 + n.minPayload)))

/-- The call that a word of the opcode table stands for, with the revision its row belongs to. The table numbers two levels
with the same eight bits (R81, R90): a selector that names an operation is a host operation, any other byte is a command by
REV A's map, else a LUT register of REV B (log entry 10). A word of no byte, or a byte of no row, is a call the port rejects. -/
def tableRequest (nbits w : Nat) : Option Revision × Request :=
  let sel : Byte := BitVec.ofNat 8 w
  if nbits < 8 then (none, .host [])
  else if sel.toNat ≤ 0x09 || (0x10 ≤ sel.toNat && sel.toNat ≤ 0x13) then
    (none, .host (padWord nbits w (1 + zeroOperands sel)))
  else
    ((tableFrame .a Command.common nbits w).or (tableFrame .b Command.luts nbits w)).getD (none, .host (padWord nbits w 1))

/-- The instruction that the decoder reads from a word of the opcode table, its operand bits zero. -/
def decodeTableWord (nbits w : Nat) : Option Instr :=
  let r := tableRequest nbits w
  (decode (Cfg.ofRevision (r.1.getD .a)) r.2).toOption

end Sys2Proof
end

