-- ==== Sys2Proof/Machine/Ops.lean ====
section
/-!
DEFINITION. The primitives of R10 over the state: emitting an event, polling BUSY, sleeping; the command frame (R80, R100); the
playing of a CommandSequence (R24, R42); taking the host's next call and completing it (R24 (a), R66). EPD-SM takes no
exception (R210, R215), so there is no operation for it.
-/

namespace Sys2Proof.Machine

open Sys2Proof

/-- An outcome of this machine. -/
abbrev Result := Host.Outcome State Fault Refusal

/-- The level an event drives line `l` to. -/
def Event.drives (l : Line) : Event → Option Level
  | .line l' v => if l' = l then some v else none
  | _ => none

/-- `emit`: the event is appended to the trace, and a line event also sets its latch (R10). -/
def State.emit (s : State) (e : Event) : State :=
  { s with
    dc := (e.drives .dc).or s.dc
    cs := (e.drives .cs).or s.cs
    rst := (e.drives .rst).getD s.rst
    trace := s.trace ++ [e] }

/-- Events emitted in order (R65). -/
def State.emitAll (s : State) (es : List Event) : State :=
  es.foldl State.emit s

/-- The level BUSY has at the next poll: the next listed input, else the free value (R32, U10). -/
def State.busyLevel (s : State) : Level :=
  s.busyIn.headD (Config.busyLevel s.polls)

/-- `Poll()`: BUSY is read once and the level read is recorded (R10, R32). -/
def State.poll (s : State) : State :=
  { s.emit (.poll s.busyLevel) with
    busyIn := s.busyIn.tail
    polls := s.polls + 1 }

/-- `emit Sleep(ms)`. -/
def State.pause (s : State) (ms : Nat) : State :=
  s.emit (.sleep ms)

/-- One bus write transaction, bracketed by chip-select where the line exists; asserted is 0 (R100, R104). -/
def transaction (hasCs : Bool) (bytes : List Byte) : List Event :=
  if hasCs then [.line .cs .low, .bus bytes, .line .cs .high] else [.bus bytes]

/-- The events of one command frame: the opcode under DC low, then the payload, if present, under DC high (R80, R100). -/
def frameEvents (hasCs : Bool) (op : Byte) (payload : Option (List Byte)) : List Event :=
  .line .dc .low :: transaction hasCs [op] ++
    match payload with
    | none => []
    | some p => .line .dc .high :: transaction hasCs p

/-- SENDCMD(op, payload?), the one operation that writes the bus (R100). It inspects nothing and waits for nothing (R102). -/
def State.sendCmd (s : State) (op : Byte) (payload : Option (List Byte)) : State :=
  s.emitAll (frameEvents s.cfg.hasCs op payload)

/-- SENDCMD(OPC.NAME, payload?). -/
def State.send (s : State) (n : Command) (payload : Option (List Byte)) : State :=
  s.sendCmd (s.cfg.opcode n) payload

/-- A CommandSequence played from its first pair to its last, one frame per pair, with no jumps (R24, R42). -/
def State.playSeq (s : State) (q : CommandSeq) : State :=
  q.foldl (fun t p => t.send p.1 p.2) s

/-- The host's next call with its decoding, and the state with the call taken; none when the host has made no call, in which
case EPD-SM "is idle until the host issues an operation" (R230). -/
def State.fetch (s : State) : Option (Except DecodeError Instr × State) :=
  match s.port with
  | [] => none
  | r :: rest => some (decode s.cfg r, { s with port := rest })

/-- The position in the host's operations advances by one when an operation completes (R24 (a)). -/
def State.retire (s : State) : State :=
  { s with pos := s.pos + 1 }

end Sys2Proof.Machine
end

