-- ==== Sys2Proof/Machine/Operands.lean ====
section
/-!
DEFINITION. The operand forms: the rectangles of SETFRAME and REFRESH (R130 to R132, R136), the addresses of a rectangle's
corners in both orientations (R84, R134, R135, R137) and the payloads and sequences formed from them (R84, R133, R144). All
are pure functions of mathematical integers (R138).
-/

namespace Sys2Proof.Machine

open Sys2Proof

/-- A pixel rectangle by its corners, both included (R84). -/
structure Window where
  x : Int
  y : Int
  xEnd : Int
  yEnd : Int
  deriving DecidableEq, Repr

/-- The controller RAM addresses of a window's corners: start and end column, start and end row (R84). -/
structure Corners where
  cs : Int
  ce : Int
  rs : Int
  re : Int
  deriving DecidableEq, Repr

/-- CALCCOORDS: x and w aligned down to 8, the end clipped to the panel (R130). -/
def calcCoords (x y w h : Int) : Window :=
  let x' := x - x % Config.gran
  let w' := w - w % Config.gran
  { x := x'
    y := y
    xEnd := if Config.width ≤ x' + w' then Config.width - 1 else x' + w' - 1
    yEnd := if Config.height ≤ y + h then Config.height - 1 else y + h - 1 }

/-- The byte count of a window: columns times rows (R132 (b), R164, R187). -/
def Window.byteCount (r : Window) : Nat :=
  (((r.xEnd - r.x) / Config.gran + 1) * (r.yEnd - r.y + 1)).toNat

/-- The addresses of a window's corners: direct in Normal, mirrored in Inverted orientation (R84, R134, R135). -/
def Window.corners (r : Window) : Orientation → Corners
  | .normal => ⟨r.x / Config.gran, r.xEnd / Config.gran, r.y, r.yEnd⟩
  | .inverted =>
    ⟨Config.maxCol - r.x / Config.gran, Config.maxCol - r.xEnd / Config.gran, Config.maxRow - r.y, Config.maxRow - r.yEnd⟩

/-- The five frames of SETRAMAREA, the entry mode first (R133). -/
def ramAreaSeq (c : Cfg) (o : Orientation) (r : Window) : CommandSeq :=
  let a := r.corners o
  [(.dataEntryMode, some [c.dem o]),
   (.setRamXWindow, some [lo8 a.cs, lo8 a.ce]),
   (.setRamYWindow, some (rowBytes a.rs ++ rowBytes a.re)),
   (.setRamXCounter, some [lo8 a.cs]),
   (.setRamYCounter, some (rowBytes a.rs))]

/-- A rectangle by its start and its size, REFRESHRECT's result (R136). -/
structure Rect where
  x : Int
  y : Int
  w : Int
  h : Int
  deriving DecidableEq, Repr

/-- REFRESHRECT: clip to the panel; none where nothing is left; else expand outward to 8-pixel boundaries, never inward (R136).
"grow width by the start offset into its byte, then round up to the next multiple of 8". -/
def refreshRect (x y w h : Int) : Option Rect :=
  let x1 := max x 0
  let w1 := min (x + w) Config.width - x1
  let y1 := max y 0
  let h1 := min (y + h) Config.height - y1
  if w1 ≤ 0 ∨ h1 ≤ 0 then none
  else
    let g := w1 + x1 % Config.gran
    some
      { x := x1 - x1 % Config.gran
        y := y1
        w := if 0 < g % Config.gran then g + Config.gran - g % Config.gran else g
        h := h1 }

/-- The window of a rectangle: its end is start + size − 1 (R166). -/
def Rect.window (r : Rect) : Window :=
  ⟨r.x, r.y, r.x + r.w - 1, r.y + r.h - 1⟩

end Sys2Proof.Machine
end

