-- ==== Sys2Proof/Machine/CommandChannel.lean ====
section
/-!
DEFINITION. The CommandChannel (40_command_channel.md): SENDCMD as a host operation (R100, R101) and the reset pulse (R103).
-/

namespace Sys2Proof.Machine

open Sys2Proof

/-- SENDCMD at the port (selector 0x13): a payload that is present but empty is refused (R101); anything else is framed (R92). -/
def execSendcmd (op : Byte) (payload : Option (List Byte)) (s : State) : Result :=
  if payloadPresent payload then .next (s.sendCmd op payload) else .refused .emptyPayload

/-- The events of RESETPULSE: RST low for RESET_LOW_MS, then high, then the recovery time (R103). -/
def pulseEvents (c : Cfg) : List Event :=
  [.line .rst .low, .sleep c.resetLowMs, .line .rst .high, .sleep c.resetPostMs]

/-- RESETPULSE (R103). MODE, ORIENT and FIRST keep their values. -/
def State.resetPulse (s : State) : State :=
  (s.emitAll (pulseEvents s.cfg)).clearTracking

/-- RESET at the port (selector 0x10) is RESETPULSE (R95, R103). -/
def execReset (s : State) : Result :=
  .next s.resetPulse

end Sys2Proof.Machine
end

