-- ==== Sys2Proof/Machine/PowerController.lean ====
section
/-!
DEFINITION. The PowerController (41_power_controller.md): WAITIDLE (R110 to R112), PWRON (R113), PWROFF (R114), HIBERNATE
(R116) and SLEEP (R117).
-/

namespace Sys2Proof.Machine

open Sys2Proof

/-- The loop of WAITIDLE with a busy line (R111): poll; return when idle is reported, or when the time bound is reached; else
sleep POLL_MS and go on. `remaining` stops at 0, where R111's goes below; only "remaining ≤ 0" is ever asked. `fuel` is one
more than the time bound, enough for any POLL_MS > 0 (R40, log entry 18). -/
def State.pollLoop : Nat → Nat → State → State
  | 0, _, s => s
  | fuel + 1, remaining, s =>
    if !s.cfg.isBusy s.busyLevel then s.poll
    else if remaining = 0 then s.poll
    else State.pollLoop fuel (remaining - s.cfg.pollMs) (s.poll.pause s.cfg.pollMs)

/-- The loop of WAITIDLE without a busy line (R112): sleep NOBUSY_STEP_MS while time remains. -/
def State.sleepLoop : Nat → Nat → State → State
  | 0, _, s => s
  | fuel + 1, remaining, s =>
    if remaining = 0 then s
    else State.sleepLoop fuel (remaining - s.cfg.noBusyStepMs) (s.pause s.cfg.noBusyStepMs)

/-- WAITIDLE(T), the bounded busy-wait (R110). It reads and writes no flag, and a time-out leaves no mark (R249). -/
def State.waitIdle (s : State) (t : Nat) : State :=
  if s.cfg.hasBusy then State.pollLoop (t + 1) t s else State.sleepLoop t t s

/-- WAITIDLE at the port (selector 0x09); a negative T is refused (R110). -/
def execWaitidle (t : Int) (s : State) : Result :=
  if 0 ≤ t then .next (s.waitIdle t.toNat) else .refused .negativeTimeout

/-- The frames of the power-on and power-off sequences: the activation-control command, then master activation (R113, R114). -/
def powerSeq (duc : Byte) : CommandSeq :=
  [(.displayUpdateControl2, some [duc]), (.masterActivation, none)]

/-- PWRON when not hibernating (R113): nothing if already On; else the frames, the wait, and only then POWER <- On (R26). -/
def State.powerOn (s : State) : State :=
  match s.power with
  | .on => s
  | .off => { (s.playSeq (powerSeq s.cfg.ducPon)).waitIdle (s.cfg.tPon.get s.mode) with power := .on }

/-- PWRON at the port (selector 0x11), refused while HIB = 1 (R113). -/
def execPwron (s : State) : Result :=
  if s.hib then .refused .powerOnWhileHibernating else .next s.powerOn

/-- PWROFF (R114): the frames, the wait and POWER <- Off if it is On; PLATCH <- 0 in both branches. -/
def State.powerOff (s : State) : State :=
  match s.power with
  | .on =>
    { (s.playSeq (powerSeq s.cfg.ducPoff)).waitIdle (s.cfg.tPoff.get s.mode) with power := .off, platch := false }
  | .off => { s with platch := false }

/-- PWROFF at the port (selector 0x12) (R114). -/
def execPwroff (s : State) : Result :=
  .next s.powerOff

/-- HIBERNATE (R116): PWROFF, then the deep-sleep frame unless the reset line is held low, then the flag. -/
def State.hibernate (s : State) : State :=
  let off := s.powerOff
  (if off.rst = .high then off.send .deepSleepMode (some [off.cfg.deepSleepEnter]) else off).markHibernating

/-- HIBERNATE (selector 0x07) (R116, R168). -/
def execHibernate (s : State) : Result :=
  .next s.hibernate

/-- SLEEP (selector 0x08): HIBERNATE, then one final short idle-wait (R117). -/
def execSleep (s : State) : Result :=
  .next (s.hibernate.waitIdle s.cfg.tSleepFinal)

end Sys2Proof.Machine
end

