-- ==== Sys2Proof/Machine/RefreshModeStrategy.lean ====
section
/-!
DEFINITION. The RefreshModeStrategy (43_refresh_mode_strategy.md) and the emitting half of the RamAddressMapper (R133):
ENSUREINIT (R141), RUNINIT (R142, R143), SETRAMAREA (R133 to R135), WRITEFRAME (R144), ACTIVATE (R145). The bound mode and
orientation are read at the moment each runs (R140).
-/

namespace Sys2Proof.Machine

open Sys2Proof

/-- The optional reset pulse at the head of RUNINIT (R142). HIB is 0 after it in every case. -/
def State.pulseIfNeeded (s : State) : State :=
  if s.needsPulse then s.resetPulse else s

/-- RUNINIT (R142): the reset pulse if needed, the bound mode's CommandSequence (on REV B it carries the LUT load, R143),
PWRON, and the record that this mode is initialized. PWRON is not refused here, since HIB is 0 after the pulse. -/
def State.runInit (s : State) : State :=
  ((s.pulseIfNeeded).playSeq (s.cfg.initSeq.get s.mode)).powerOn.markInitialized

/-- ENSUREINIT (R141). -/
def State.ensureInit (s : State) : State :=
  if s.isInitialized then s else s.runInit

/-- SETRAMAREA in the current orientation (R133). -/
def State.setRamArea (s : State) (r : Window) : State :=
  s.playSeq (ramAreaSeq s.cfg s.orient r)

/-- WRITEFRAME (R144): in Partial mode the border frame before the window; the window and the buffer; in Fast mode the window
again and the red plane's zeros, counted by the window. -/
def State.writeFrame (s : State) (buf : List Byte) (r : Window) : State :=
  let s1 := if s.mode = .part then s.send .borderWaveform (some [s.cfg.borderPartial]) else s
  let s2 := (s1.setRamArea r).send .writeRam (some buf)
  if s.mode = .fast then (s2.setRamArea r).send .writeRamRed (some (List.replicate r.byteCount 0x00)) else s2

/-- The frames of a display activation (R145). -/
def activateSeq (duc : Byte) : CommandSeq :=
  [(.displayUpdateControl2, some [duc]), (.masterActivation, none), (.terminate, none)]

/-- ACTIVATE (R145): the frames, the mode's wait, and in Fast mode PWROFF. It checks no flag. -/
def State.activate (s : State) : State :=
  let t := (s.playSeq (activateSeq (s.cfg.ducDisplay.get s.mode))).waitIdle (s.cfg.tDisplay.get s.mode)
  if s.mode = .fast then t.powerOff else t

end Sys2Proof.Machine
end

