-- ==== Sys2Proof/Machine/EpdDriver.lean ====
section
/-!
DEFINITION. The EpdDriver (44_epd_driver.md), the public operations: INIT (R160), SETMODE (R161), SETORIENT (R162), SETFRAME
(R163), CLEAR (R167), DISPLAY (R165), REFRESH (R166). The public HIBERNATE, SLEEP and WAITIDLE are the PowerController's, with
no wrapper (R168).
-/

namespace Sys2Proof.Machine

open Sys2Proof

/-- INIT (selector 0x00) is RUNINIT, unconditionally (R160). -/
def execInit (s : State) : Result :=
  .next s.runInit

/-- SETMODE (selector 0x01): nothing at all if the mode does not change; else rebind, power off at once, and force
re-initialization (R161). -/
def execSetmode (m : RefreshMode) (s : State) : Result :=
  if m = s.mode then .next s
  else .next { ({ s with mode := m } : State).powerOff with inited := false }

/-- SETORIENT (selector 0x02) emits nothing (R162). -/
def execSetorient (o : Orientation) (s : State) : Result :=
  .next { s with orient := o }

/-- SETFRAME on an admitted rectangle (R163). -/
def State.setFrame (s : State) (buf : List Byte) (x y w h : Int) : State :=
  s.ensureInit.writeFrame buf (calcCoords x y w h)

/-- SETFRAME (selector 0x03). An empty buffer (R21) or a rectangle outside R131's domain is refused before anything is emitted
(R214 (d)). The buffer's length is not checked against the window (R164). -/
def execSetframe (buf : List Byte) (x y w h : Int) (s : State) : Result :=
  if buf = [] then .refused .emptyBuffer
  else if frameDomain x y w h then .next (s.setFrame buf x y w h)
  else .refused .geometryOutsideDomain

/-- CLEAR (selector 0x06) is the SETFRAME of a constant full-panel buffer of WIDTH × HEIGHT / 8 bytes (R167). -/
def execClear (fill : Byte) (s : State) : Result :=
  .next (s.setFrame (List.replicate (Config.width * Config.height / 8).toNat fill) 0 0 Config.width Config.height)

/-- DISPLAY (selector 0x04) is ACTIVATE, with no initialization check (R165, R243). -/
def execDisplay (s : State) : Result :=
  .next s.activate

/-- REFRESH (selector 0x05): the first call is DISPLAY whatever the rectangle; a later call sets the window of the expanded
rectangle and runs DISPLAY, or does nothing where the rectangle is degenerate (R166). -/
def execRefresh (x y w h : Int) (s : State) : Result :=
  if s.first then .next ({ s with first := false } : State).activate
  else
    match refreshRect x y w h with
    | none => .next s
    | some r => .next (s.setRamArea r.window).activate

end Sys2Proof.Machine
end

