-- ==== Sys2Proof/Machine/ControllerCommands.lean ====
section
/-!
DEFINITION. The controller commands as instructions (45_controller_commands.md): each is emitted as one frame by SENDCMD with
the opcode of the machine's own map (R41, R100), and changes nothing but the line latches and the trace. A row of the opcode
table belongs to one revision; on a machine of the other revision it has no opcode and no meaning (R2, R41, log entry 12).
-/

namespace Sys2Proof.Machine

open Sys2Proof

/-- One command frame of revision `rev` (R180 to R198). -/
def execCommand (rev : Revision) (n : Command) (payload : Option (List Byte)) (s : State) : Result :=
  if s.cfg.rev ≠ rev then .refused .notInRevision
  else if n.payloadOk payload then .next (s.send n payload)
  else .refused .payloadOutsideFormat

/-! ### REV A -/

/-- DRIVER_OUTPUT_CONTROL (R180); payload: the number of gate lines minus one, low byte first, then the gate scan control. -/
def execDriverOutputControl (gates : Word16) (scan : Byte) (s : State) : Result :=
  execCommand .a .driverOutputControl (some (rowBytes gates.toNat ++ [scan])) s

/-- DEEP_SLEEP_MODE (R181); payload: one byte, in HIBERNATE Cfg.DEEP_SLEEP_ENTER. -/
def execDeepSleepMode (p0 : Byte) (s : State) : Result :=
  execCommand .a .deepSleepMode (some [p0]) s

/-- DATA_ENTRY_MODE (R182); payload: the entry mode of the scan direction (R85). -/
def execDataEntryMode (dem : Byte) (s : State) : Result :=
  execCommand .a .dataEntryMode (some [dem]) s

/-- TEMP_SENSOR_CONTROL (R183); payload: one byte; a write, nothing is read back (C5). -/
def execTempSensorControl (p0 : Byte) (s : State) : Result :=
  execCommand .a .tempSensorControl (some [p0]) s

/-- MASTER_ACTIVATION (R184); payload: none. -/
def execMasterActivation (s : State) : Result :=
  execCommand .a .masterActivation none s

/-- DISPLAY_UPDATE_CONTROL_2 (R185); payload: one selector byte (R86). -/
def execDisplayUpdateControl2 (duc : Byte) (s : State) : Result :=
  execCommand .a .displayUpdateControl2 (some [duc]) s

/-- WRITE_RAM (R186); payload: the buffer, whole and verbatim (R56). -/
def execWriteRam (buf : List Byte) (s : State) : Result :=
  execCommand .a .writeRam (some buf) s

/-- WRITE_RAM_RED (R187); payload: n zero bytes (R52). -/
def execWriteRamRed (n : Nat) (s : State) : Result :=
  execCommand .a .writeRamRed (some (List.replicate n 0x00)) s

/-- BORDER_WAVEFORM (R188); payload: one byte. -/
def execBorderWaveform (p0 : Byte) (s : State) : Result :=
  execCommand .a .borderWaveform (some [p0]) s

/-- SET_RAM_X_WINDOW (R189); payload: start column, end column. -/
def execSetRamXWindow (cs ce : Byte) (s : State) : Result :=
  execCommand .a .setRamXWindow (some [cs, ce]) s

/-- SET_RAM_Y_WINDOW (R190); payload: start row, end row, each low byte first. -/
def execSetRamYWindow (rs re : Word16) (s : State) : Result :=
  execCommand .a .setRamYWindow (some (rowBytes rs.toNat ++ rowBytes re.toNat)) s

/-- SET_RAM_X_COUNTER (R191); payload: start column. -/
def execSetRamXCounter (cs : Byte) (s : State) : Result :=
  execCommand .a .setRamXCounter (some [cs]) s

/-- SET_RAM_Y_COUNTER (R192); payload: start row, low byte first. -/
def execSetRamYCounter (rs : Word16) (s : State) : Result :=
  execCommand .a .setRamYCounter (some (rowBytes rs.toNat)) s

/-- TERMINATE (R193); payload: none. -/
def execTerminate (s : State) : Result :=
  execCommand .a .terminate none s

/-! ### REV B -/

/-- DRIVER_OUTPUT_CONTROL@B (R180); payload: the number of gate lines minus one, low byte first, then the gate scan control. -/
def execDriverOutputControlB (gates : Word16) (scan : Byte) (s : State) : Result :=
  execCommand .b .driverOutputControl (some (rowBytes gates.toNat ++ [scan])) s

/-- DEEP_SLEEP_MODE@B (R181); payload: one byte, in HIBERNATE Cfg.DEEP_SLEEP_ENTER. -/
def execDeepSleepModeB (p0 : Byte) (s : State) : Result :=
  execCommand .b .deepSleepMode (some [p0]) s

/-- DATA_ENTRY_MODE@B (R182); payload: the entry mode of the scan direction (R85). -/
def execDataEntryModeB (dem : Byte) (s : State) : Result :=
  execCommand .b .dataEntryMode (some [dem]) s

/-- TEMP_SENSOR_CONTROL@B (R183); payload: one byte; a write, nothing is read back (C5). -/
def execTempSensorControlB (p0 : Byte) (s : State) : Result :=
  execCommand .b .tempSensorControl (some [p0]) s

/-- MASTER_ACTIVATION@B (R184); payload: none. -/
def execMasterActivationB (s : State) : Result :=
  execCommand .b .masterActivation none s

/-- DISPLAY_UPDATE_CONTROL_2@B (R185); payload: one selector byte (R86). -/
def execDisplayUpdateControl2B (duc : Byte) (s : State) : Result :=
  execCommand .b .displayUpdateControl2 (some [duc]) s

/-- WRITE_RAM@B (R186); payload: the buffer, whole and verbatim (R56). -/
def execWriteRamB (buf : List Byte) (s : State) : Result :=
  execCommand .b .writeRam (some buf) s

/-- WRITE_RAM_RED@B (R187); payload: n zero bytes (R52). -/
def execWriteRamRedB (n : Nat) (s : State) : Result :=
  execCommand .b .writeRamRed (some (List.replicate n 0x00)) s

/-- BORDER_WAVEFORM@B (R188); payload: one byte. -/
def execBorderWaveformB (p0 : Byte) (s : State) : Result :=
  execCommand .b .borderWaveform (some [p0]) s

/-- SET_RAM_X_WINDOW@B (R189); payload: start column, end column. -/
def execSetRamXWindowB (cs ce : Byte) (s : State) : Result :=
  execCommand .b .setRamXWindow (some [cs, ce]) s

/-- SET_RAM_Y_WINDOW@B (R190); payload: start row, end row, each low byte first. -/
def execSetRamYWindowB (rs re : Word16) (s : State) : Result :=
  execCommand .b .setRamYWindow (some (rowBytes rs.toNat ++ rowBytes re.toNat)) s

/-- SET_RAM_X_COUNTER@B (R191); payload: start column. -/
def execSetRamXCounterB (cs : Byte) (s : State) : Result :=
  execCommand .b .setRamXCounter (some [cs]) s

/-- SET_RAM_Y_COUNTER@B (R192); payload: start row, low byte first. -/
def execSetRamYCounterB (rs : Word16) (s : State) : Result :=
  execCommand .b .setRamYCounter (some (rowBytes rs.toNat)) s

/-- TERMINATE@B (R193); payload: none. -/
def execTerminateB (s : State) : Result :=
  execCommand .b .terminate none s

/-! ### The waveform registers of REV B -/

/-- LUT0, waveform register 0x20 (R194, R143); payload: the table, 1 to 56 bytes (R43). -/
def execLut0 (table : List Byte) (s : State) : Result :=
  execCommand .b (.lut 0) (some table) s

/-- LUT1, waveform register 0x21 (R195, R143); payload: the table, 1 to 56 bytes (R43). -/
def execLut1 (table : List Byte) (s : State) : Result :=
  execCommand .b (.lut 1) (some table) s

/-- LUT2, waveform register 0x22 (R196, R143); payload: the table, 1 to 56 bytes (R43). -/
def execLut2 (table : List Byte) (s : State) : Result :=
  execCommand .b (.lut 2) (some table) s

/-- LUT3, waveform register 0x23 (R197, R143); payload: the table, 1 to 56 bytes (R43). -/
def execLut3 (table : List Byte) (s : State) : Result :=
  execCommand .b (.lut 3) (some table) s

/-- LUT4, waveform register 0x24 (R198, R143); payload: the table, 1 to 56 bytes (R43). -/
def execLut4 (table : List Byte) (s : State) : Result :=
  execCommand .b (.lut 4) (some table) s

end Sys2Proof.Machine
end

