-- ==== Sys2Proof/Machine/Dispatch.lean ====
section
/-!
DEFINITION. exec: one arm per constructor of Instr, each one direct call of the instruction's meaning.
-/

namespace Sys2Proof.Machine

open Sys2Proof

def exec (i : Instr) (s : State) : Host.Outcome State Fault Refusal :=
  match i with
  | .driverOutputControl gates scan => Sys2Proof.Machine.execDriverOutputControl gates scan s
  | .deepSleepMode p0 => Sys2Proof.Machine.execDeepSleepMode p0 s
  | .dataEntryMode dem => Sys2Proof.Machine.execDataEntryMode dem s
  | .tempSensorControl p0 => Sys2Proof.Machine.execTempSensorControl p0 s
  | .masterActivation => Sys2Proof.Machine.execMasterActivation s
  | .displayUpdateControl2 duc => Sys2Proof.Machine.execDisplayUpdateControl2 duc s
  | .writeRam buf => Sys2Proof.Machine.execWriteRam buf s
  | .writeRamRed n => Sys2Proof.Machine.execWriteRamRed n s
  | .borderWaveform p0 => Sys2Proof.Machine.execBorderWaveform p0 s
  | .setRamXWindow cs ce => Sys2Proof.Machine.execSetRamXWindow cs ce s
  | .setRamYWindow rs re => Sys2Proof.Machine.execSetRamYWindow rs re s
  | .setRamXCounter cs => Sys2Proof.Machine.execSetRamXCounter cs s
  | .setRamYCounter rs => Sys2Proof.Machine.execSetRamYCounter rs s
  | .terminate => Sys2Proof.Machine.execTerminate s
  | .driverOutputControlB gates scan => Sys2Proof.Machine.execDriverOutputControlB gates scan s
  | .deepSleepModeB p0 => Sys2Proof.Machine.execDeepSleepModeB p0 s
  | .dataEntryModeB dem => Sys2Proof.Machine.execDataEntryModeB dem s
  | .tempSensorControlB p0 => Sys2Proof.Machine.execTempSensorControlB p0 s
  | .masterActivationB => Sys2Proof.Machine.execMasterActivationB s
  | .displayUpdateControl2B duc => Sys2Proof.Machine.execDisplayUpdateControl2B duc s
  | .writeRamB buf => Sys2Proof.Machine.execWriteRamB buf s
  | .writeRamRedB n => Sys2Proof.Machine.execWriteRamRedB n s
  | .borderWaveformB p0 => Sys2Proof.Machine.execBorderWaveformB p0 s
  | .setRamXWindowB cs ce => Sys2Proof.Machine.execSetRamXWindowB cs ce s
  | .setRamYWindowB rs re => Sys2Proof.Machine.execSetRamYWindowB rs re s
  | .setRamXCounterB cs => Sys2Proof.Machine.execSetRamXCounterB cs s
  | .setRamYCounterB rs => Sys2Proof.Machine.execSetRamYCounterB rs s
  | .terminateB => Sys2Proof.Machine.execTerminateB s
  | .lut0 table => Sys2Proof.Machine.execLut0 table s
  | .lut1 table => Sys2Proof.Machine.execLut1 table s
  | .lut2 table => Sys2Proof.Machine.execLut2 table s
  | .lut3 table => Sys2Proof.Machine.execLut3 table s
  | .lut4 table => Sys2Proof.Machine.execLut4 table s
  | .init => Sys2Proof.Machine.execInit s
  | .setmode m => Sys2Proof.Machine.execSetmode m s
  | .setorient o => Sys2Proof.Machine.execSetorient o s
  | .setframe buf x y w h => Sys2Proof.Machine.execSetframe buf x y w h s
  | .display => Sys2Proof.Machine.execDisplay s
  | .refresh x y w h => Sys2Proof.Machine.execRefresh x y w h s
  | .clear fill => Sys2Proof.Machine.execClear fill s
  | .hibernate => Sys2Proof.Machine.execHibernate s
  | .sleep => Sys2Proof.Machine.execSleep s
  | .waitidle t => Sys2Proof.Machine.execWaitidle t s
  | .reset => Sys2Proof.Machine.execReset s
  | .pwron => Sys2Proof.Machine.execPwron s
  | .pwroff => Sys2Proof.Machine.execPwroff s
  | .sendcmd op payload => Sys2Proof.Machine.execSendcmd op payload s

end Sys2Proof.Machine
end

