-- ==== Sys2Proof/Machine/Step.lean ====
section
/-!
DEFINITION. One step: take the host's next call, run it to completion (R6, R24, R66), and count it (R24 (a)). Without a call
EPD-SM is idle and nothing changes (R230). Also where a word of the opcode table is put for the next step to run.
-/

namespace Sys2Proof.Machine

open Sys2Proof

/-- One step. An instruction is one whole operation, which R24 allows: "both give the same trace because no other agent writes
S". A call that cannot be decoded, or an operation that is refused, has no next state and no partial effect (R214 (d)). -/
def step (s : State) : Host.Outcome State Fault Refusal :=
  match s.fetch with
  | none => .next s
  | some (.error e, _) => .refused (.undecodable e)
  | some (.ok i, t) =>
    match exec i t with
    | .next u => .next u.retire
    | .fault f => .fault f
    | .refused r => .refused r

/-- `s` with the call that a word of the opcode table stands for put first on the port, its operand bits zero. A command row
belongs to one revision, so the machine is then the one of that revision with the table's opcode map (log entries 3, 8, 10). -/
def State.withFetchWord (s : State) (nbits w : Nat) : State :=
  let r := tableRequest nbits w
  { s with
    port := r.2 :: s.port
    cfg := match r.1 with
      | none => s.cfg
      | some rev => Cfg.ofRevision rev }

end Sys2Proof.Machine
end

