-- ==== Sys2Proof/Machine/Memory.lean ====
section
/-!
DEFINITION. A RAM plane of the controller as the reference model of R58 needs it: a list of (address, byte) cells in one
canonical form, addresses strictly rising. EPD-SM itself has no memory (R50); this is no part of its state. A cell that nothing
has written has no value, since the controller's RAM "holds anything" (R232).
-/

namespace Sys2Proof.Machine

open Sys2Proof

/-- A RAM plane. -/
abbrev Memory := List Host.Cell

/-- The byte at an address, none where nothing has been written. -/
def Memory.read : Memory → Nat → Option Byte
  | [], _ => none
  | (k, b) :: m, a => if k = a then some b else Memory.read m a

/-- `MemWrite(plane, a, 1, b)` (R58), keeping the cells in order. -/
def Memory.write : Memory → Nat → Byte → Memory
  | [], a, b => [(a, b)]
  | (k, v) :: m, a, b =>
    if a < k then (a, b) :: (k, v) :: m
    else if a = k then (a, b) :: m
    else (k, v) :: Memory.write m a b

/-- The canonical form: addresses strictly rising. -/
abbrev Memory.wf (m : Memory) : Prop :=
  (m.map Prod.fst).Pairwise (· < ·)

end Sys2Proof.Machine
end

