-- ==== Sys2Proof/Machine/Controller.lean ====
section
/-!
DEFINITION. The far side of the bus, as an observer of the trace. First the frames a trace carries (R88). Then the informative
reference model of the controller's RAM addressing (R58), from general knowledge: no rule of EPD-SM depends on it and it is no
field of State (log entry 20). Where it answers none the spec gives any value for the controller from there on, and the observer
says nothing until it starts again from some reference state; a cell without a value is one that may hold anything.
-/

namespace Sys2Proof.Machine

open Sys2Proof

/-- One command frame: an opcode and at most one payload (R80). -/
structure Frame where
  op : Byte
  payload : Option (List Byte)
  deriving DecidableEq, Repr

/-- Where a reader of the trace stands (R88). -/
inductive Phase where
  /-- Between frames. -/
  | between
  /-- DC is low and the opcode has not come. -/
  | opcode
  /-- The opcode has come; a payload may follow. -/
  | sent (op : Byte)
  /-- DC is high and the payload has not come. -/
  | payload (op : Byte)
  deriving DecidableEq, Repr

/-- The frames in a trace read from phase `p`, none where it is not of the shapes of R88: an opcode is one byte under DC low, a
payload is one transaction under DC high, only chip-select events stand inside a frame. -/
def readFrames : Phase → List Event → Option (List Frame)
  | .between, [] => some []
  | .between, .line .dc .low :: es => readFrames .opcode es
  | .between, .line .dc .high :: _ => none
  | .between, .bus _ :: _ => none
  | .between, .line .cs _ :: es => readFrames .between es
  | .between, .line .rst _ :: es => readFrames .between es
  | .between, .poll _ :: es => readFrames .between es
  | .between, .sleep _ :: es => readFrames .between es
  | .opcode, .line .cs _ :: es => readFrames .opcode es
  | .opcode, .bus [op] :: es => readFrames (.sent op) es
  | .opcode, _ => none
  | .sent op, [] => some [⟨op, none⟩]
  | .sent op, .line .cs _ :: es => readFrames (.sent op) es
  | .sent op, .line .dc .high :: es => readFrames (.payload op) es
  | .sent op, .line .dc .low :: es => (readFrames .opcode es).map (⟨op, none⟩ :: ·)
  | .sent op, .line .rst _ :: es => (readFrames .between es).map (⟨op, none⟩ :: ·)
  | .sent op, .poll _ :: es => (readFrames .between es).map (⟨op, none⟩ :: ·)
  | .sent op, .sleep _ :: es => (readFrames .between es).map (⟨op, none⟩ :: ·)
  | .sent _, .bus _ :: _ => none
  | .payload op, .line .cs _ :: es => readFrames (.payload op) es
  | .payload op, .bus p :: es => (readFrames .between es).map (⟨op, some p⟩ :: ·)
  | .payload _, _ => none

/-- The command frames a trace carries, decoded "without any length information" (R88). -/
def framesOf (trace : List Event) : Option (List Frame) :=
  readFrames .between trace

/-- A RAM address: column and row (R51). -/
structure RamAddr where
  col : Byte
  row : Word16
  deriving DecidableEq, Repr

/-- The address is one of the controller's RAM, column 0 to 24 and row 0 to 199 (R51). -/
def RamAddr.onPanel (a : RamAddr) : Bool :=
  a.col.toNat ≤ 24 && a.row.toNat ≤ 199

/-- The key of a RAM address in a plane. -/
def RamAddr.key (a : RamAddr) : Nat :=
  256 * a.row.toNat + a.col.toNat

/-- The registers of the reference model: window start and end, the counters, the entry mode (R58). R58 gives no widths: a column
register of one byte and a row register of two, as wide as their payload fields, are this model's choice (log entry 24). -/
structure RamRegs where
  xs : Byte
  xe : Byte
  ys : Word16
  ye : Word16
  xc : Byte
  yc : Word16
  dem : Byte
  deriving DecidableEq, Repr

/-- The counters' address. -/
def RamRegs.addr (r : RamRegs) : RamAddr :=
  ⟨r.xc, r.yc⟩

/-- The counters stand at the window's start, as SETRAMAREA leaves them (R133). -/
def RamRegs.atStart (r : RamRegs) : Bool :=
  r.xc == r.xs && r.yc == r.ys

/-- How many bytes the window has, whichever corner it starts from (R84, R164). -/
def RamRegs.windowCount (r : RamRegs) : Nat :=
  (((r.xe.toNat : Int) - r.xs.toNat).natAbs + 1) * (((r.ye.toNat : Int) - r.ys.toNat).natAbs + 1)

/-- The counters after one data byte (R58, R85); bit 0 of the entry mode is ID0, bit 1 ID1, bit 2 AM. With AM = 0 the column
counter steps first, the row counter at the window's edge. That a step outside a window wraps modulo 2^8 or 2^16 is this model's
choice (log entry 24). With AM = 1 R58 gives no step, and the counters are free values (log entry 28). R85 has bits 7 to 3 as 0, and
that an entry mode with one of them set steps by bits 0 to 2 alone is this model's choice (log entry 30). -/
def RamRegs.advance (r : RamRegs) : RamRegs :=
  if r.dem.getLsbD 2 then
    { r with
      xc := Config.freeColumn r.xs r.xe r.ys r.ye r.xc r.yc r.dem
      yc := Config.freeRow r.xs r.xe r.ys r.ye r.xc r.yc r.dem }
  else if r.xc = r.xe then
    { r with
      xc := r.xs
      yc := if r.yc = r.ye then r.ys else if r.dem.getLsbD 1 then r.yc + 1 else r.yc - 1 }
  else { r with xc := if r.dem.getLsbD 0 then r.xc + 1 else r.xc - 1 }

/-- The registers after `k` data bytes. -/
def RamRegs.advances : Nat → RamRegs → RamRegs
  | 0, r => r
  | k + 1, r => RamRegs.advances k r.advance

/-- The addresses the next `k` data bytes go to. -/
def RamRegs.addresses : Nat → RamRegs → List RamAddr
  | 0, _ => []
  | k + 1, r => r.addr :: RamRegs.addresses k r.advance

/-- The reference model: the registers and the two planes (R52, R54, R58); the selector byte DISPLAY_UPDATE_CONTROL_2 last sent,
which says what the next MASTER_ACTIVATION does (R86); and whether the last WRITE_RAM had another length than its window, so that
the RAM is any value until the next WRITE_RAM has been written (R164, U3, log entry 27). -/
structure RefRam where
  regs : RamRegs
  bw : Memory
  red : Memory
  duc : Option Byte
  mismatched : Bool
  deriving DecidableEq, Repr

/-- Data bytes stored from the counters on, in transmission order (R58). None where one of them would go to an address the RAM
does not have (R51): R58 does not say where it then goes (log entry 24). -/
def storeBytes : List Byte → RamRegs → Memory → Option Memory
  | [], _, m => some m
  | b :: bs, r, m => if r.addr.onPanel then storeBytes bs r.advance (m.write r.addr.key b) else none

/-- A RAM write after which the contents of both planes are any value: no cell has a known value, and the counters step on by
R58 (R164, U3, log entry 27). -/
def RefRam.forget (m : RefRam) (count : Nat) : RefRam :=
  { m with regs := m.regs.advances count, bw := [], red := [], mismatched := true }

/-- The black/white plane's data (R58). Where a buffer sent from the window's start has not the window's byte count, the contents
of the RAM are any value (R164, U3, log entry 27). -/
def RefRam.writeBw (m : RefRam) (bytes : List Byte) : Option RefRam :=
  if m.regs.atStart && bytes.length != m.regs.windowCount then some (m.forget bytes.length)
  else
    (storeBytes bytes m.regs m.bw).map
      (fun bw => { m with regs := m.regs.advances bytes.length, bw := bw, mismatched := false })

/-- The red plane's data (R52, R58). In a Fast SETFRAME they follow the buffer, and where its length was not the window's the RAM
is any value after them too (R164, U3, log entry 27). -/
def RefRam.writeRed (m : RefRam) (bytes : List Byte) : Option RefRam :=
  if m.mismatched then some (m.forget bytes.length)
  else (storeBytes bytes m.regs m.red).map (fun red => { m with regs := m.regs.advances bytes.length, red := red })

/-- The selector makes MASTER_ACTIVATION a power-on or a display activation, and no power-off (R86). -/
def keepsRam (c : Cfg) (duc : Byte) : Bool :=
  duc != c.ducPoff && (duc == c.ducPon || duc == c.ducDisplay.full || duc == c.ducDisplay.part || duc == c.ducDisplay.fast)

/-- MASTER_ACTIVATION, by the selector last sent. A power-on and a display activation keep RAM and registers (PRESUMED, log entry
20). What they hold after a power-off is any value (R220, U13, N33), and so it is here where no selector of the configuration has
been sent (log entry 26). -/
def RefRam.activate (c : Cfg) (m : RefRam) : Option RefRam :=
  if m.duc.any (keepsRam c) then some m else none

/-- What a command with a payload of its format does to the reference model. None, any value from there on, for a deep sleep
(R220, log entry 26). That the commands of the last arm but one leave RAM and its registers alone is PRESUMED (log entry
20). A payload of the last arm is not of its format. -/
def RefRam.onCommand (c : Cfg) (m : RefRam) : Command → List Byte → Option RefRam
  | .dataEntryMode, [d] => some { m with regs := { m.regs with dem := d } }
  | .setRamXWindow, [cs, ce] => some { m with regs := { m.regs with xs := cs, xe := ce } }
  | .setRamYWindow, [slo, shi, elo, ehi] => some { m with regs := { m.regs with ys := rowOf slo shi, ye := rowOf elo ehi } }
  | .setRamXCounter, [cs] => some { m with regs := { m.regs with xc := cs } }
  | .setRamYCounter, [lo, hi] => some { m with regs := { m.regs with yc := rowOf lo hi } }
  | .writeRam, buf => m.writeBw buf
  | .writeRamRed, zeros => m.writeRed zeros
  | .displayUpdateControl2, [duc] => some { m with duc := some duc }
  | .masterActivation, _ => m.activate c
  | .deepSleepMode, _ => none
  | .driverOutputControl, _ | .tempSensorControl, _ | .borderWaveform, _ | .terminate, _ | .lut _, _ => some m
  | .dataEntryMode, _ | .setRamXWindow, _ | .setRamYWindow, _ | .setRamXCounter, _ | .setRamYCounter, _
  | .displayUpdateControl2, _ => none

/-- One frame's effect on the reference model. What the controller does with an opcode outside the map is any value (R92, U15), and
so it is here with a payload not of its command's format: none in both cases (log entry 25). -/
def RefRam.onFrame (c : Cfg) (f : Frame) (m : RefRam) : Option RefRam :=
  (c.commandAt f.op).bind (fun n => if n.payloadOk f.payload then m.onCommand c n (f.payload.getD []) else none)

/-- A list of frames played into the reference model. -/
def RefRam.onFrames (c : Cfg) : List Frame → RefRam → Option RefRam
  | [], m => some m
  | f :: fs, m => (m.onFrame c f).bind (RefRam.onFrames c fs)

end Sys2Proof.Machine
end

