-- ==== Sys2Proof/Safety.lean ====
section
/-!
DEFINITION. The terms claims are stated in: the state after a list of events in closed form, the events of a sequence and of a
bounded wait (R110 to R112), the invariants of S (R34), what is admitted (R21), and the frames of an operation.
-/

namespace Sys2Proof

/-- The two intervals of WAITIDLE are positive (R40). -/
abbrev Cfg.Timed (c : Cfg) : Prop :=
  0 < c.pollMs ∧ 0 < c.noBusyStepMs

/-- One of the ten public operations (R89). -/
def Instr.isPublic : Instr → Bool
  | .init | .setmode .. | .setorient .. | .setframe .. | .display | .refresh .. | .clear .. | .hibernate | .sleep
  | .waitidle .. => true
  | _ => false

/-- An operation that runs the initialization check or the initialization (R54, R141, R160). -/
def Instr.mayInit : Instr → Bool
  | .init | .setframe .. | .clear .. => true
  | _ => false

end Sys2Proof

namespace Sys2Proof.Machine

open Sys2Proof

/-- The last level a list of events drives line `l` to. -/
def lastDrive (l : Line) (es : List Event) : Option Level :=
  es.foldl (fun acc e => (e.drives l).or acc) none

/-- The event is a poll of BUSY. -/
def Event.isPoll : Event → Bool
  | .poll _ => true
  | _ => false

/-- The event is a sleep. -/
def Event.isSleep : Event → Bool
  | .sleep _ => true
  | _ => false

/-- How many of the events are polls. -/
def pollCount (es : List Event) : Nat :=
  es.countP Event.isPoll

/-- The state after the events `es`, in closed form: the latches hold the last level driven (R31), the trace has grown by the
events (R33), and as many BUSY levels have been taken as there are polls (R32). Nothing else changes. -/
def State.after (s : State) (es : List Event) : State :=
  { s with
    dc := (lastDrive .dc es).or s.dc
    cs := (lastDrive .cs es).or s.cs
    rst := (lastDrive .rst es).getD s.rst
    trace := s.trace ++ es
    busyIn := s.busyIn.drop (pollCount es)
    polls := s.polls + pollCount es }

/-- The events of a CommandSequence: one frame per pair, in order (R24, R100). -/
def seqEvents (c : Cfg) (q : CommandSeq) : List Event :=
  q.flatMap (fun p => frameEvents c.hasCs (c.opcode p.1) p.2)

/-- The level BUSY has at the j-th poll from state `s` on. -/
def State.inputAt (s : State) (j : Nat) : Level :=
  (s.busyIn.drop j).headD (Config.busyLevel (s.polls + j))

/-- `ceil(t / step)`. -/
def ceilDiv (t step : Nat) : Nat :=
  (t + step - 1) / step

/-- How many of the levels `busy 0`, `busy 1`, … are busy before the first idle one, `n` at most. -/
def busySpan (busy : Nat → Bool) : Nat → Nat
  | 0 => 0
  | n + 1 => if busy 0 then busySpan (fun j => busy (j + 1)) n + 1 else 0

/-- The events of WAITIDLE(t) from state `s`. With a busy line: a poll and a sleep of POLL_MS for each busy answer, at most
ceil(t / POLL_MS) of them, then one last poll (R111). Without: ceil(t / NOBUSY_STEP_MS) sleeps of NOBUSY_STEP_MS (R112). -/
def State.waitEvents (s : State) (t : Nat) : List Event :=
  if s.cfg.hasBusy then
    let k := busySpan (fun j => s.cfg.isBusy (s.inputAt j)) (ceilDiv t s.cfg.pollMs)
    (List.range k).flatMap (fun j => [.poll (s.inputAt j), .sleep s.cfg.pollMs]) ++ [.poll (s.inputAt k)]
  else List.replicate (ceilDiv t s.cfg.noBusyStepMs) (.sleep s.cfg.noBusyStepMs)

/-- The events of a CommandSequence followed by a WAITIDLE(t), from state `s`. -/
def State.seqThenWait (s : State) (q : CommandSeq) (t : Nat) : List Event :=
  seqEvents s.cfg q ++ (s.after (seqEvents s.cfg q)).waitEvents t

/-- The invariants (I-a) to (I-e) of R34. -/
def State.Inv (s : State) : Prop :=
  (s.hib = true → s.power = .off)
    ∧ (s.hib = true → s.inited = false)
    ∧ (s.platch = true → s.power = .on ∧ s.inited = true ∧ s.initMode = .part ∧ s.mode = .part)
    ∧ (s.inited = true → s.initMode = s.mode)
    ∧ s.rst = .high

/-- Each output latch holds the level the trace last drove its line to; RST is high where it has never been driven (R31). -/
def State.LatchesMatchTrace (s : State) : Prop :=
  s.dc = lastDrive .dc s.trace ∧ s.cs = lastDrive .cs s.trace ∧ s.rst = (lastDrive .rst s.trace).getD .high

/-- The trace can be decoded back to frames (R88). -/
def State.TraceDecodes (s : State) : Prop :=
  (framesOf s.trace).isSome = true

/-- Lines that do not exist are silent: without chip-select no `Line(CS, _)` and CS unwritten (R31), without a busy line no
`Poll` (R32). -/
def State.AbsentLinesSilent (s : State) : Prop :=
  (s.cfg.hasCs = false → s.cs = none ∧ ∀ v, Event.line .cs v ∉ s.trace)
    ∧ (s.cfg.hasBusy = false → ∀ v, Event.poll v ∉ s.trace)

/-- The input is one the spec gives a meaning in this state: operands in their domain (R21, R81, R131), a command row of the
machine's revision (R41), and no PWRON while hibernating (R113). -/
def Admitted (i : Instr) (s : State) : Prop :=
  i.wellFormed = true ∧ i.inRevision s.cfg = true ∧ (i = .pwron → s.hib = false)

/-- The events that are neither polls nor sleeps: what the controller is sent (R249). -/
def commandEvents (es : List Event) : List Event :=
  es.filter (fun e => !e.isPoll && !e.isSleep)

/-- Two states that differ in the BUSY inputs and in the trace only. -/
def SameButInputs (s t : State) : Prop :=
  { s with trace := t.trace, busyIn := t.busyIn, polls := t.polls } = t

/-- The frames of WRITEFRAME for a buffer and a window (R144). -/
def writeFrameSeq (c : Cfg) (m : RefreshMode) (o : Orientation) (buf : List Byte) (r : Window) : CommandSeq :=
  (if m = .part then [(.borderWaveform, some [c.borderPartial])] else [])
    ++ ramAreaSeq c o r ++ [(.writeRam, some buf)]
    ++ (if m = .fast then ramAreaSeq c o r
            ++ [(.writeRamRed, some (List.replicate (((r.xEnd - r.x) / 8 + 1) * (r.yEnd - r.y + 1)).toNat 0x00))] else [])

/-- A pixel (px, py) lies in a window. -/
def Window.contains (r : Window) (px py : Int) : Prop :=
  r.x ≤ px ∧ px ≤ r.xEnd ∧ r.y ≤ py ∧ py ≤ r.yEnd

/-- A window SETRAMAREA is given: in the panel, whole byte-columns (R133, R60 (d)). -/
def Window.OnPanel (r : Window) : Prop :=
  0 ≤ r.x ∧ r.x ≤ r.xEnd ∧ r.xEnd ≤ 199 ∧ r.x % 8 = 0 ∧ (r.xEnd + 1) % 8 = 0 ∧ 0 ≤ r.y ∧ r.y ≤ r.yEnd ∧ r.yEnd ≤ 199

/-- The registers of the reference model after the window frames of a rectangle (R58, R84). -/
def regsFor (c : Cfg) (o : Orientation) (r : Window) : RamRegs :=
  let a := r.corners o
  { xs := lo8 a.cs
    xe := lo8 a.ce
    ys := BitVec.ofInt 16 a.rs
    ye := BitVec.ofInt 16 a.re
    xc := lo8 a.cs
    yc := BitVec.ofInt 16 a.rs
    dem := c.dem o }

/-- The frames of a CommandSequence under a configuration's opcode map. -/
def seqFrames (c : Cfg) (q : CommandSeq) : List Frame :=
  q.map (fun p => ⟨c.opcode p.1, p.2⟩)

/-- The RAM address rotated by 180° (R135, R137). -/
def RamAddr.reflect (a : RamAddr) : RamAddr :=
  ⟨24 - a.col, 199 - a.row⟩

end Sys2Proof.Machine
end

