-- ==== Sys2Proof/Certificates/Slice0/Obligations.lean ====
section
/-!
DEFINITION. The statements about EPD-SM, each from the rules its docstring names. They hold for every configuration, not for the
default alone; what a statement needs of the configuration is a hypothesis. BUSY is a free input throughout (U10).
-/

open Sys2Proof Sys2Proof.Machine

/-! ## Construction -/

/-- R44: the state after construction, for every configuration, INITMODE apart (R44 leaves it unspecified). MODE, ORIENT,
HIB, DC, CS and RST are the spec's own decisions D3 to D6. -/
def Obligations.ConstructionLeavesResetValues : Prop :=
  ∀ c : Cfg,
    (State.construct c).mode = .full ∧ (State.construct c).orient = .normal ∧ (State.construct c).power = .off
      ∧ (State.construct c).hib = true ∧ (State.construct c).inited = false ∧ (State.construct c).platch = false
      ∧ (State.construct c).first = true ∧ (State.construct c).dc = none ∧ (State.construct c).cs = none
      ∧ (State.construct c).rst = .high ∧ (State.construct c).trace = [] ∧ (State.construct c).cfg = c

/-- R34: the invariants hold in the reset state, and so do those about the latches, the lines and the trace. -/
def Obligations.ConstructionMeetsInvariants : Prop :=
  ∀ c : Cfg,
    (State.construct c).Inv ∧ (State.construct c).LatchesMatchTrace ∧ (State.construct c).TraceDecodes
      ∧ (State.construct c).AbsentLinesSilent

/-- R40, R41, R42: the defaults meet the constraints the spec puts on a configuration. The defaults are the spec's own
choices (log entry 2), HAS_CS and HAS_BUSY this model's (log entry 1). -/
def Obligations.DefaultConfigurationIsWellFormed : Prop :=
  Cfg.default.wellFormed = true ∧ Cfg.default.Timed

/-! ## The step -/

/-- R24 (a), R66: a call that decodes to `i` makes the step run `i` on the state without the call, and a completed operation
advances the position by one. The port is this model's (log entry 8), and so is one step for one operation (log entry 16),
which R24 allows. -/
def Obligations.StepRunsDecodedInstruction : Prop :=
  ∀ (s : State) (r : Request) (rest : List Request) (i : Instr),
    s.port = r :: rest → decode s.cfg r = .ok i →
      step s =
        match exec i { s with port := rest } with
        | .next u => .next { u with pos := u.pos + 1 }
        | .fault f => .fault f
        | .refused q => .refused q

/-- R230, R92: without a call EPD-SM is idle; a call without a decoding is refused. The port is this model's (log entry 8). -/
def Obligations.StepIdlesOrRefusesWithoutInstruction : Prop :=
  (∀ s : State, s.port = [] → step s = .next s)
    ∧ ∀ (s : State) (r : Request) (rest : List Request) (e : DecodeError),
        s.port = r :: rest → decode s.cfg r = .error e → step s = .refused (.undecodable e)

/-! ## Encodings -/

/-- R41, R81, R84, R90: words written out from the spec's encodings decode to the instructions they stand for. REV A's
opcodes are the spec's defaults (log entry 2), the selectors its own numbering, the operand bytes of host calls this model's
(log entry 9). -/
def Obligations.SampleWordsDecode : Prop :=
  decode Cfg.default (.frame [0x45, 0xC4, 0x00, 0xC7, 0x00]) = .ok (.setRamYWindow 196 199)
    ∧ decode Cfg.default (.frame [0x01, 0xC7, 0x00, 0x00]) = .ok (.driverOutputControl 199 0)
    ∧ decode Cfg.default (.frame [0x20]) = .ok .masterActivation
    ∧ decode Cfg.default (.frame [0x24, 0xAA, 0xBB]) = .ok (.writeRam [0xAA, 0xBB])
    ∧ decode Cfg.default (.host [0x01, 0x02]) = .ok (.setmode .fast)
    ∧ decode Cfg.default (.host [0x06, 0xFF]) = .ok (.clear 0xFF)
    ∧ decode Cfg.default (.host [0x13, 0x44, 0x01, 0x00, 0x18]) = .ok (.sendcmd 0x44 (some [0x00, 0x18]))

/-- R90, R92: a selector that names no operation, and a mode or an orientation outside its enumeration, is refused by the step.
The numbering and the refusal are the spec's decisions (D10, D27); that the operand is one byte and stands on a port is this
model's layout (log entries 8, 9). -/
def Obligations.UnassignedSelectorsAndValuesRefused : Prop :=
  (∀ (s : State) (rest : List Request) (sel : Byte) (ops : List Byte),
      (0x0A ≤ sel.toNat ∧ sel.toNat ≤ 0x0F) ∨ 0x14 ≤ sel.toNat → s.port = .host (sel :: ops) :: rest →
        step s = .refused (.undecodable (.unassignedSelector sel)))
    ∧ (∀ (s : State) (rest : List Request) (m : Byte),
        3 ≤ m.toNat → s.port = .host [0x01, m] :: rest → step s = .refused (.undecodable (.modeOutsideEnum m)))
    ∧ ∀ (s : State) (rest : List Request) (o : Byte),
        2 ≤ o.toNat → s.port = .host [0x02, o] :: rest → step s = .refused (.undecodable (.orientOutsideEnum o))

/-- R41, R80 to R85, R90: in a well-formed configuration, every well-formed instruction of the machine's revision is read
back from its encoding, with every operand at every value. The operand bytes of a host call are this model's own (log entry
9). -/
def Obligations.DecodeEncodeRoundTrip : Prop :=
  ∀ (c : Cfg) (i : Instr),
    c.wellFormed = true → i.wellFormed = true → i.inRevision c = true → decode c (encode c i) = .ok i

/-! ## CommandChannel -/

/-- R100: SENDCMD emits exactly the events of one frame, sets DC and CS through them, and changes nothing else. -/
def Obligations.SendcmdEmitsOneFrame : Prop :=
  ∀ (op : Byte) (s : State),
    exec (.sendcmd op none) s =
        .next
          { s with
            dc := some .low
            cs := if s.cfg.hasCs then some .high else s.cs
            trace := s.trace ++
              if s.cfg.hasCs then [.line .dc .low, .line .cs .low, .bus [op], .line .cs .high]
              else [.line .dc .low, .bus [op]] }
      ∧ ∀ payload : List Byte, payload ≠ [] →
        exec (.sendcmd op (some payload)) s =
          .next
            { s with
              dc := some .high
              cs := if s.cfg.hasCs then some .high else s.cs
              trace := s.trace ++
                if s.cfg.hasCs then
                  [.line .dc .low, .line .cs .low, .bus [op], .line .cs .high, .line .dc .high, .line .cs .low, .bus payload,
                   .line .cs .high]
                else [.line .dc .low, .bus [op], .line .dc .high, .bus payload] }

/-- R101: a payload that is present has at least one byte; SENDCMD(op, []) is refused. "this spec gives it no meaning" (D12,
log entry 13). -/
def Obligations.SendcmdRefusesEmptyPayload : Prop :=
  ∀ (op : Byte) (s : State), exec (.sendcmd op (some [])) s = .refused .emptyPayload

/-- R103: RESET emits the pulse, sets the four tracking fields, and changes nothing else; MODE, ORIENT and FIRST stay. That
POWER and the latch are cleared, and the recovery sleep, "is this spec's choice" (D13). -/
def Obligations.ResetPulsesAndClearsTracking : Prop :=
  ∀ s : State,
    exec .reset s =
      .next
        { s with
          rst := .high
          trace := s.trace ++
            [.line .rst .low, .sleep s.cfg.resetLowMs, .line .rst .high, .sleep s.cfg.resetPostMs]
          hib := false
          inited := false
          power := .off
          platch := false }

/-! ## PowerController -/

/-- R111: WAITIDLE with a busy line polls and sleeps through k busy answers and ends with one more poll, where k is at most
ceil(T / POLL_MS) and less only if that last poll reports idle. Only the trace and the inputs change. That the poll comes
before the time check, and that time is counted by the sleeps, is what "this spec chose" (D14). -/
def Obligations.WaitidlePollsUntilIdleOrBound : Prop :=
  ∀ (t : Int) (s : State), 0 ≤ t → s.cfg.hasBusy = true → 0 < s.cfg.pollMs →
    ∃ k, k ≤ ceilDiv t.toNat s.cfg.pollMs
      ∧ (∀ j, j < k → s.cfg.isBusy (s.inputAt j) = true)
      ∧ (s.cfg.isBusy (s.inputAt k) = true → k = ceilDiv t.toNat s.cfg.pollMs)
      ∧ exec (.waitidle t) s =
          .next
            { s with
              trace := s.trace ++ ((List.range k).flatMap (fun j => [.poll (s.inputAt j), .sleep s.cfg.pollMs])
                ++ [.poll (s.inputAt k)])
              busyIn := s.busyIn.drop (k + 1)
              polls := s.polls + (k + 1) }

/-- R112: WAITIDLE without a busy line sleeps ceil(T / NOBUSY_STEP_MS) steps, polls nothing, and changes only the trace. The
step is the spec's choice (D14). -/
def Obligations.WaitidleSleepsWithoutBusyLine : Prop :=
  ∀ (t : Int) (s : State), 0 ≤ t → s.cfg.hasBusy = false → 0 < s.cfg.noBusyStepMs →
    exec (.waitidle t) s =
      .next
        { s with
          trace := s.trace ++ List.replicate (ceilDiv t.toNat s.cfg.noBusyStepMs) (.sleep s.cfg.noBusyStepMs) }

/-- R118: what WAITIDLE emits is polls and sleeps only, and their number is bounded whatever the controller does. An
inference the spec draws from R111 and R112. -/
def Obligations.WaitidleIsBounded : Prop :=
  ∀ (t : Int) (s u : State), s.cfg.Timed → exec (.waitidle t) s = .next u →
    ∃ es, u.trace = s.trace ++ es
      ∧ (∀ e ∈ es, e.isPoll = true ∨ e.isSleep = true)
      ∧ (s.cfg.hasBusy = true →
          es.countP Event.isPoll ≤ ceilDiv t.toNat s.cfg.pollMs + 1 ∧ es.countP Event.isSleep ≤ ceilDiv t.toNat s.cfg.pollMs)
      ∧ (s.cfg.hasBusy = false →
          es.countP Event.isPoll = 0 ∧ es.countP Event.isSleep = ceilDiv t.toNat s.cfg.noBusyStepMs)

/-- R110: a negative time is refused. "the source gives it no meaning" (log entry 13). -/
def Obligations.WaitidleRefusesNegativeTime : Prop :=
  ∀ (t : Int) (s : State), t < 0 → exec (.waitidle t) s = .refused .negativeTimeout

/-- R113: PWRON is refused while hibernating, does nothing if already On, and else sends the activation-control command and
master activation, waits T_PON of the mode, and then marks On. The refusal "is this spec's choice" (D19), and so is the
register (D16). -/
def Obligations.PwronPowersOnOnce : Prop :=
  ∀ s : State, s.cfg.Timed →
    (s.hib = true → exec .pwron s = .refused .powerOnWhileHibernating)
      ∧ (s.hib = false → s.power = .on → exec .pwron s = .next s)
      ∧ (s.hib = false → s.power = .off →
          exec .pwron s =
            .next
              { s.after (s.seqThenWait [(.displayUpdateControl2, some [s.cfg.ducPon]), (.masterActivation, none)]
                  (s.cfg.tPon.get s.mode)) with
                power := .on })

/-- R114: PWROFF sends the deactivation sequence and marks Off only if On, and clears the latch in both branches. The frames
of the deactivation are built by the spec like the activation's (D17). -/
def Obligations.PwroffPowersOffOnce : Prop :=
  ∀ s : State, s.cfg.Timed →
    (s.power = .off → exec .pwroff s = .next { s with platch := false })
      ∧ (s.power = .on →
          exec .pwroff s =
            .next
              { s.after (s.seqThenWait [(.displayUpdateControl2, some [s.cfg.ducPoff]), (.masterActivation, none)]
                  (s.cfg.tPoff.get s.mode)) with
                power := .off
                platch := false })

/-- R113, R114 (V-S5): "two consecutive powerOn() calls issue the power-on command sequence exactly once", and likewise
powerOff(): the second call changes nothing. -/
def Obligations.PowerOperationsAreIdempotent : Prop :=
  ∀ s t : State,
    (exec .pwron s = .next t → exec .pwron t = .next t) ∧ (exec .pwroff s = .next t → exec .pwroff t = .next t)

/-- R115: the pair (POWER, HIB) after each of the five operations, from the three reachable pairs. A table the spec derives
from its other rules. -/
def Obligations.PowerTransitionsOfTable : Prop :=
  ∀ s : State, (s.hib = true → s.power = .off) →
    (s.hib = false → ∃ t, exec .pwron s = .next t ∧ t.power = .on ∧ t.hib = false)
      ∧ (∃ t, exec .pwroff s = .next t ∧ t.power = .off ∧ t.hib = s.hib)
      ∧ (∃ t, exec .hibernate s = .next t ∧ t.power = .off ∧ t.hib = true)
      ∧ (∃ t, exec .reset s = .next t ∧ t.power = .off ∧ t.hib = false)
      ∧ ∃ t, exec .init s = .next t ∧ t.power = .on ∧ t.hib = false

/-- R116: HIBERNATE powers off (frames only if On), sends the deep-sleep frame only if the reset line is not held low, and
records Hibernating either way. That it is recorded also without the frame, and that INITED is cleared, is decision D18. -/
def Obligations.HibernatePowersOffThenSleeps : Prop :=
  ∀ s : State, s.cfg.Timed →
    exec .hibernate s =
      .next
        { s.after
            ((if s.power = .on then
                s.seqThenWait [(.displayUpdateControl2, some [s.cfg.ducPoff]), (.masterActivation, none)]
                  (s.cfg.tPoff.get s.mode)
              else [])
              ++ if s.rst = .high then seqEvents s.cfg [(.deepSleepMode, some [s.cfg.deepSleepEnter])] else []) with
          power := .off
          platch := false
          hib := true
          inited := false }

/-- R117: SLEEP completes as HIBERNATE and then WAITIDLE(T_SLEEP_FINAL) on the state it leaves, and its end state is that of
HIBERNATE but for the trace and the BUSY levels the wait took. -/
def Obligations.SleepIsHibernateThenWait : Prop :=
  ∀ s : State,
    ∃ t u, exec .hibernate s = .next t ∧ exec (.waitidle s.cfg.tSleepFinal) t = .next u ∧ exec .sleep s = .next u
      ∧ { u with trace := t.trace, busyIn := t.busyIn, polls := t.polls } = t

/-! ## RamAddressMapper -/

/-- R131, R87: on the admitted domain CALCCOORDS' window lies on the panel in whole byte-columns, and so do the addresses of
its corners in both orientations. The domain is the spec's decision D21. -/
def Obligations.CalcCoordsStaysOnPanel : Prop :=
  ∀ (x y w h : Int) (o : Orientation), frameDomain x y w h = true →
    (calcCoords x y w h).OnPanel
      ∧ 0 ≤ ((calcCoords x y w h).corners o).cs ∧ ((calcCoords x y w h).corners o).cs ≤ 24
      ∧ 0 ≤ ((calcCoords x y w h).corners o).ce ∧ ((calcCoords x y w h).corners o).ce ≤ 24
      ∧ 0 ≤ ((calcCoords x y w h).corners o).rs ∧ ((calcCoords x y w h).corners o).rs ≤ 199
      ∧ 0 ≤ ((calcCoords x y w h).corners o).re ∧ ((calcCoords x y w h).corners o).re ≤ 199

/-- R130: the end coordinates are the aligned start plus the aligned size less one, clipped to (width−1, height−1). -/
def Obligations.CalcCoordsAlignsAndClips : Prop :=
  ∀ x y w h : Int,
    (calcCoords x y w h).x = 8 * (x / 8) ∧ (calcCoords x y w h).y = y
      ∧ (calcCoords x y w h).xEnd = min (8 * (x / 8) + 8 * (w / 8) - 1) 199
      ∧ (calcCoords x y w h).yEnd = min (y + h - 1) 199

/-- R136: REFRESHRECT clips to the panel and gives none exactly where no pixel is left; else it expands outward, never inward,
to the nearest enclosing 8-pixel boundaries (less than 8 pixels beyond the clipped request on either side, no row beyond it), so
that no pixel is excluded. These bounds are the source's sentence; that they make x and the width multiples of 8 on the panel,
the width at least 8 and the height at least 1 is what R136 marks derived. -/
def Obligations.RefreshRectCoversRequest : Prop :=
  ∀ x y w h : Int,
    (refreshRect x y w h = none ↔
        ¬ ∃ px py : Int, 0 ≤ px ∧ px < 200 ∧ 0 ≤ py ∧ py < 200 ∧ x ≤ px ∧ px < x + w ∧ y ≤ py ∧ py < y + h)
      ∧ ∀ r, refreshRect x y w h = some r →
          r.window.OnPanel ∧ r.w % 8 = 0 ∧ 8 ≤ r.w ∧ 1 ≤ r.h
            ∧ (∀ px py : Int, 0 ≤ px → px < 200 → 0 ≤ py → py < 200 → x ≤ px → px < x + w → y ≤ py → py < y + h →
                r.window.contains px py)
            ∧ max x 0 - 8 < r.x ∧ r.x + r.w < min (x + w) 200 + 8
            ∧ r.y = max y 0 ∧ r.y + r.h = min (y + h) 200

/-- R137: the inverted column equals maxColumn − normalColumn and the inverted row maxRow − normalRow, at both corners;
reflecting the inverted addresses gives the Normal ones back. -/
def Obligations.InvertedCornersAreReflected : Prop :=
  ∀ r : Window,
    (r.corners .inverted).cs = 24 - (r.corners .normal).cs ∧ (r.corners .inverted).ce = 24 - (r.corners .normal).ce
      ∧ (r.corners .inverted).rs = 199 - (r.corners .normal).rs ∧ (r.corners .inverted).re = 199 - (r.corners .normal).re
      ∧ 24 - (r.corners .inverted).cs = (r.corners .normal).cs ∧ 24 - (r.corners .inverted).ce = (r.corners .normal).ce
      ∧ 199 - (r.corners .inverted).rs = (r.corners .normal).rs ∧ 199 - (r.corners .inverted).re = (r.corners .normal).re

/-! ## RefreshModeStrategy and EpdDriver -/

/-- R142, R160: INIT pulses reset if the policy says so or HIB = 1, plays the bound mode's sequence, powers on unless the
power is On already, and records the mode; the latch is set in Partial mode. When the pulse is sent, that PWRON ends it, and
where the latch is set is what "this spec chose" (D23, D24, D26, D40). -/
def Obligations.InitPlaysModeSequence : Prop :=
  ∀ s : State, s.cfg.Timed →
    let pulsed : Bool := s.cfg.initResetPolicy == .always || s.hib
    let pulse : List Event :=
      if pulsed then [.line .rst .low, .sleep s.cfg.resetLowMs, .line .rst .high, .sleep s.cfg.resetPostMs] else []
    let start : List Event := pulse ++ seqEvents s.cfg (s.cfg.initSeq.get s.mode)
    let powering : List Event :=
      if pulsed || s.power == .off then
        (s.after start).seqThenWait [(.displayUpdateControl2, some [s.cfg.ducPon]), (.masterActivation, none)]
          (s.cfg.tPon.get s.mode)
      else []
    exec .init s =
      .next
        { s.after (start ++ powering) with
          hib := false
          inited := true
          initMode := s.mode
          power := .on
          platch := if s.mode = .part then true else if pulsed then false else s.platch }

/-- R141, R144, R163: on a block initialized under the bound mode and not hibernated since, SETFRAME emits exactly the frames
of WRITEFRAME, whatever the buffer's length (R164), and changes nothing but latches and trace. The second window sequence in
Fast mode and the zero count are what "this spec chose" (D28). The window frames are spelled out in
WindowFramesSetReferenceRegisters. -/
def Obligations.SetframeWritesWhenInitialized : Prop :=
  ∀ (buf : List Byte) (x y w h : Int) (s : State),
    s.inited = true → s.initMode = s.mode → s.hib = false → buf ≠ [] → frameDomain x y w h = true →
      let r : Window := calcCoords x y w h
      let zeros : Nat := (((r.xEnd - r.x) / 8 + 1) * (r.yEnd - r.y + 1)).toNat
      exec (.setframe buf x y w h) s =
        .next (s.after (seqEvents s.cfg
          ((if s.mode = .part then [(.borderWaveform, some [s.cfg.borderPartial])] else [])
            ++ ramAreaSeq s.cfg s.orient r ++ [(.writeRam, some buf)]
            ++ if s.mode = .fast then ramAreaSeq s.cfg s.orient r ++ [(.writeRamRed, some (List.replicate zeros 0x00))]
              else [])))

/-- R141, R163: otherwise SETFRAME runs the initialization first, then writes as on an initialized block. WRITEFRAME as in
the statement before (D28). -/
def Obligations.SetframeInitializesFirst : Prop :=
  ∀ (buf : List Byte) (x y w h : Int) (s : State),
    ¬ (s.inited = true ∧ s.initMode = s.mode ∧ s.hib = false) → buf ≠ [] → frameDomain x y w h = true →
      ∃ t, exec .init s = .next t
        ∧ exec (.setframe buf x y w h) s =
            .next (t.after (seqEvents s.cfg (writeFrameSeq s.cfg s.mode s.orient buf (calcCoords x y w h))))

/-- R131, R21: SETFRAME refuses an empty buffer and every rectangle outside the admitted domain. "All four are refused",
"although the real block rejects nothing" (D21, log entry 13). -/
def Obligations.SetframeRefusesOutsideDomain : Prop :=
  (∀ (x y w h : Int) (s : State), exec (.setframe [] x y w h) s = .refused .emptyBuffer)
    ∧ ∀ (buf : List Byte) (x y w h : Int) (s : State), buf ≠ [] →
        (x < 0 ∨ 200 ≤ x ∨ y < 0 ∨ 200 ≤ y ∨ w < 8 ∨ h < 1) →
          exec (.setframe buf x y w h) s = .refused .geometryOutsideDomain

/-- R167: CLEAR is the SETFRAME of 5000 copies of the fill byte over the full panel, and it always completes. "This spec
defines it" so (D31). -/
def Obligations.ClearIsFullPanelSetframe : Prop :=
  ∀ (fill : Byte) (s : State),
    ∃ t, exec (.clear fill) s = .next t ∧ exec (.setframe (List.replicate 5000 fill) 0 0 200 200) s = .next t

/-- R145, R165: DISPLAY sends the three activation frames, waits the mode's bound, and in Fast mode powers off (frames only
if On); it checks no initialization. Bytes and bounds come from the configuration (D29), the power-off frames from D17. -/
def Obligations.DisplayActivatesBoundMode : Prop :=
  ∀ s : State, s.cfg.Timed →
    let es : List Event :=
      s.seqThenWait
        [(.displayUpdateControl2, some [s.cfg.ducDisplay.get s.mode]), (.masterActivation, none), (.terminate, none)]
        (s.cfg.tDisplay.get s.mode)
    (s.mode ≠ .fast → exec .display s = .next (s.after es))
      ∧ (s.mode = .fast → s.power = .off → exec .display s = .next { s.after es with platch := false })
      ∧ (s.mode = .fast → s.power = .on →
          exec .display s =
            .next
              { s.after
                  (es ++ (s.after es).seqThenWait [(.displayUpdateControl2, some [s.cfg.ducPoff]), (.masterActivation, none)]
                    (s.cfg.tPoff.get s.mode)) with
                power := .off
                platch := false })

/-- R166: the first REFRESH is DISPLAY whatever the rectangle and clears FIRST; a later one is a complete no-op on a
degenerate rectangle, and else sets the window of the expanded rectangle in the current orientation and runs DISPLAY. The
last case is what "this spec chose" (D30). -/
def Obligations.RefreshFirstFullThenWindowed : Prop :=
  ∀ (x y w h : Int) (s : State),
    (s.first = true →
        ∃ t, exec (.refresh x y w h) s = .next t ∧ exec .display { s with first := false } = .next t)
      ∧ (s.first = false → refreshRect x y w h = none → exec (.refresh x y w h) s = .next s)
      ∧ ∀ r, s.first = false → refreshRect x y w h = some r →
          ∃ t, exec (.refresh x y w h) s = .next t
            ∧ exec .display (s.after (seqEvents s.cfg
                (ramAreaSeq s.cfg s.orient ⟨r.x, r.y, r.x + r.w - 1, r.y + r.h - 1⟩))) = .next t

/-- R161: SETMODE does nothing for the bound mode; for another it rebinds, powers off at once with the new mode's bound
(frames only if On), and clears INITED. The order "follows the sentence order of the source" (D27). -/
def Obligations.SetmodeRebindsAndPowersOff : Prop :=
  ∀ (m : RefreshMode) (s : State), s.cfg.Timed →
    (m = s.mode → exec (.setmode m) s = .next s)
      ∧ (m ≠ s.mode → s.power = .off →
          exec (.setmode m) s = .next { s with mode := m, platch := false, inited := false })
      ∧ (m ≠ s.mode → s.power = .on →
          exec (.setmode m) s =
            .next
              { s.after (s.seqThenWait [(.displayUpdateControl2, some [s.cfg.ducPoff]), (.masterActivation, none)]
                  (s.cfg.tPoff.get m)) with
                mode := m
                power := .off
                platch := false
                inited := false })

/-- R162: SETORIENT changes ORIENT only, so no event is emitted, no power-off forced and INITED not cleared. -/
def Obligations.SetorientChangesOrientationOnly : Prop :=
  ∀ (o : Orientation) (s : State), exec (.setorient o) s = .next { s with orient := o }

/-! ## Controller commands -/

/-- R180 to R185, R188, R193: on a REV A machine each register or activation command is one frame: its opcode, its payload
fields in transmission order, nothing else changed. The payload formats are decisions D22 and D24. -/
def Obligations.RegisterCommandsOfRevA : Prop :=
  ∀ (s : State) (gates : Word16) (p : Byte), s.cfg.rev = .a →
    exec (.driverOutputControl gates p) s =
        .next (s.after (frameEvents s.cfg.hasCs s.cfg.opc.driverOutputControl
          (some [gates.extractLsb' 0 8, gates.extractLsb' 8 8, p])))
      ∧ exec (.deepSleepMode p) s = .next (s.after (frameEvents s.cfg.hasCs s.cfg.opc.deepSleepMode (some [p])))
      ∧ exec (.dataEntryMode p) s = .next (s.after (frameEvents s.cfg.hasCs s.cfg.opc.dataEntryMode (some [p])))
      ∧ exec (.tempSensorControl p) s = .next (s.after (frameEvents s.cfg.hasCs s.cfg.opc.tempSensorControl (some [p])))
      ∧ exec .masterActivation s = .next (s.after (frameEvents s.cfg.hasCs s.cfg.opc.masterActivation none))
      ∧ exec (.displayUpdateControl2 p) s =
          .next (s.after (frameEvents s.cfg.hasCs s.cfg.opc.displayUpdateControl2 (some [p])))
      ∧ exec (.borderWaveform p) s = .next (s.after (frameEvents s.cfg.hasCs s.cfg.opc.borderWaveform (some [p])))
      ∧ exec .terminate s = .next (s.after (frameEvents s.cfg.hasCs s.cfg.opc.terminate none))

/-- R189 to R192: on a REV A machine each window or counter command is one frame; columns are one byte, rows two, low first.
The widths and the byte order are decisions D22 and D39. -/
def Obligations.AddressCommandsOfRevA : Prop :=
  ∀ (s : State) (cs ce : Byte) (rs re : Word16), s.cfg.rev = .a →
    exec (.setRamXWindow cs ce) s = .next (s.after (frameEvents s.cfg.hasCs s.cfg.opc.setRamXWindow (some [cs, ce])))
      ∧ exec (.setRamYWindow rs re) s =
          .next (s.after (frameEvents s.cfg.hasCs s.cfg.opc.setRamYWindow
            (some [rs.extractLsb' 0 8, rs.extractLsb' 8 8, re.extractLsb' 0 8, re.extractLsb' 8 8])))
      ∧ exec (.setRamXCounter cs) s = .next (s.after (frameEvents s.cfg.hasCs s.cfg.opc.setRamXCounter (some [cs])))
      ∧ exec (.setRamYCounter rs) s =
          .next (s.after (frameEvents s.cfg.hasCs s.cfg.opc.setRamYCounter
            (some [rs.extractLsb' 0 8, rs.extractLsb' 8 8])))

/-- R186, R187: on a REV A machine a RAM write is one frame with the buffer verbatim, a red-plane write one with n zeros. The
red plane's command is decision D28. -/
def Obligations.RamCommandsOfRevA : Prop :=
  ∀ (s : State) (buf : List Byte) (n : Nat), s.cfg.rev = .a → buf ≠ [] → 1 ≤ n →
    exec (.writeRam buf) s = .next (s.after (frameEvents s.cfg.hasCs s.cfg.opc.writeRam (some buf)))
      ∧ exec (.writeRamRed n) s =
          .next (s.after (frameEvents s.cfg.hasCs s.cfg.opc.writeRamRed (some (List.replicate n 0))))

/-- R180 to R185, R188, R193: the same commands on a REV B machine, by its own map. -/
def Obligations.RegisterCommandsOfRevB : Prop :=
  ∀ (s : State) (gates : Word16) (p : Byte), s.cfg.rev = .b →
    exec (.driverOutputControlB gates p) s =
        .next (s.after (frameEvents s.cfg.hasCs s.cfg.opc.driverOutputControl
          (some [gates.extractLsb' 0 8, gates.extractLsb' 8 8, p])))
      ∧ exec (.deepSleepModeB p) s = .next (s.after (frameEvents s.cfg.hasCs s.cfg.opc.deepSleepMode (some [p])))
      ∧ exec (.dataEntryModeB p) s = .next (s.after (frameEvents s.cfg.hasCs s.cfg.opc.dataEntryMode (some [p])))
      ∧ exec (.tempSensorControlB p) s = .next (s.after (frameEvents s.cfg.hasCs s.cfg.opc.tempSensorControl (some [p])))
      ∧ exec .masterActivationB s = .next (s.after (frameEvents s.cfg.hasCs s.cfg.opc.masterActivation none))
      ∧ exec (.displayUpdateControl2B p) s =
          .next (s.after (frameEvents s.cfg.hasCs s.cfg.opc.displayUpdateControl2 (some [p])))
      ∧ exec (.borderWaveformB p) s = .next (s.after (frameEvents s.cfg.hasCs s.cfg.opc.borderWaveform (some [p])))
      ∧ exec .terminateB s = .next (s.after (frameEvents s.cfg.hasCs s.cfg.opc.terminate none))

/-- R189 to R192: the same on a REV B machine, by its own map. -/
def Obligations.AddressCommandsOfRevB : Prop :=
  ∀ (s : State) (cs ce : Byte) (rs re : Word16), s.cfg.rev = .b →
    exec (.setRamXWindowB cs ce) s = .next (s.after (frameEvents s.cfg.hasCs s.cfg.opc.setRamXWindow (some [cs, ce])))
      ∧ exec (.setRamYWindowB rs re) s =
          .next (s.after (frameEvents s.cfg.hasCs s.cfg.opc.setRamYWindow
            (some [rs.extractLsb' 0 8, rs.extractLsb' 8 8, re.extractLsb' 0 8, re.extractLsb' 8 8])))
      ∧ exec (.setRamXCounterB cs) s = .next (s.after (frameEvents s.cfg.hasCs s.cfg.opc.setRamXCounter (some [cs])))
      ∧ exec (.setRamYCounterB rs) s =
          .next (s.after (frameEvents s.cfg.hasCs s.cfg.opc.setRamYCounter
            (some [rs.extractLsb' 0 8, rs.extractLsb' 8 8])))

/-- R186, R187: the same on a REV B machine, by its own map. -/
def Obligations.RamCommandsOfRevB : Prop :=
  ∀ (s : State) (buf : List Byte) (n : Nat), s.cfg.rev = .b → buf ≠ [] → 1 ≤ n →
    exec (.writeRamB buf) s = .next (s.after (frameEvents s.cfg.hasCs s.cfg.opc.writeRam (some buf)))
      ∧ exec (.writeRamRedB n) s =
          .next (s.after (frameEvents s.cfg.hasCs s.cfg.opc.writeRamRed (some (List.replicate n 0))))

/-- R194 to R198: on a REV B machine LUT0 to LUT4 send a table of 1 to 56 bytes to registers 0x20 to 0x24, one frame each. -/
def Obligations.LutCommandsOfRevB : Prop :=
  ∀ (s : State) (table : List Byte), s.cfg.rev = .b → 1 ≤ table.length → table.length ≤ 56 →
    exec (.lut0 table) s = .next (s.after (frameEvents s.cfg.hasCs 0x20 (some table)))
      ∧ exec (.lut1 table) s = .next (s.after (frameEvents s.cfg.hasCs 0x21 (some table)))
      ∧ exec (.lut2 table) s = .next (s.after (frameEvents s.cfg.hasCs 0x22 (some table)))
      ∧ exec (.lut3 table) s = .next (s.after (frameEvents s.cfg.hasCs 0x23 (some table)))
      ∧ exec (.lut4 table) s = .next (s.after (frameEvents s.cfg.hasCs 0x24 (some table)))

/-- R2, R41: a command row of the other revision has no opcode in this machine's map and is refused (log entry 12). Refusing
it is this model's choice. -/
def Obligations.OtherRevisionsCommandsRefused : Prop :=
  ∀ (i : Instr) (s : State), i.inRevision s.cfg = false → exec i s = .refused .notInRevision

/-- 45_controller_commands.md, opening; R100: every command row of the machine's revision is the SENDCMD of its opcode and
payload. That a frame on the port is a SENDCMD call is this model's choice (log entry 11). -/
def Obligations.CommandRowIsSendcmd : Prop :=
  ∀ (i : Instr) (s : State) (n : Command) (p : Option (List Byte)),
    i.command = some (n, p) → i.wellFormed = true → i.inRevision s.cfg = true →
      exec i s = exec (.sendcmd (s.cfg.opcode n) p) s

/-! ## The whole machine -/

/-- R210, R11, R21: an instruction completes exactly where the spec gives it a meaning. No operation faults. Which inputs
have none is the spec's decision (R11) and log entries 12 and 13. -/
def Obligations.CompletesExactlyWhereAdmitted : Prop :=
  ∀ (i : Instr) (s : State), (∃ t, exec i s = .next t) ↔ Admitted i s

/-- R34: every step keeps the invariants (I-a) to (I-e), from every state that meets them. The spec derives them. -/
def Obligations.StepKeepsStateInvariants : Prop :=
  ∀ s t : State, s.Inv → step s = .next t → t.Inv

/-- R31: every step keeps the latches equal to the levels the trace last drove. The trace "is a modelling device" (D7). -/
def Obligations.StepKeepsLatchesMatchingTrace : Prop :=
  ∀ s t : State, s.LatchesMatchTrace → step s = .next t → t.LatchesMatchTrace

/-- R88, R65 (1): every step keeps the trace decodable to frames, each opcode before its payload and nothing between. The
spec derives it. -/
def Obligations.StepKeepsTraceDecodable : Prop :=
  ∀ s t : State, s.TraceDecodes → step s = .next t → t.TraceDecodes

/-- R31, R32: a line that does not exist stays silent. -/
def Obligations.StepKeepsAbsentLinesSilent : Prop :=
  ∀ s t : State, s.AbsentLinesSilent → step s = .next t → t.AbsentLinesSilent

/-- R33, R40: a step only appends to the trace, and it never changes the configuration. -/
def Obligations.StepAppendsToTraceAndKeepsConfiguration : Prop :=
  ∀ s t : State, step s = .next t → (∃ es, t.trace = s.trace ++ es) ∧ t.cfg = s.cfg

/-- R23, R25, R30, R233: MODE is written only by SETMODE, ORIENT only by SETORIENT, FIRST only by REFRESH, which clears it. -/
def Obligations.BindingsHaveOneWriter : Prop :=
  ∀ (i : Instr) (s t : State), exec i s = .next t →
    (t.mode ≠ s.mode → i = .setmode t.mode)
      ∧ (t.orient ≠ s.orient → i = .setorient t.orient)
      ∧ (t.first ≠ s.first → t.first = false ∧ ∃ x y w h, i = .refresh x y w h)

/-- R38, R115: which operations set and clear each tracking flag; an initialization clears PLATCH only by its reset pulse and
only outside Partial mode, which sets it again. The table is the spec's inference, and so is the latch (D40). -/
def Obligations.FlagsChangeOnlyByTheirWriters : Prop :=
  ∀ (i : Instr) (s t : State), exec i s = .next t →
    (s.power = .off → t.power = .on → i = .pwron ∨ i.mayInit = true)
      ∧ (s.power = .on → t.power = .off →
          i = .pwroff ∨ i = .reset ∨ i = .hibernate ∨ i = .sleep ∨ (∃ m, i = .setmode m ∧ m ≠ s.mode)
            ∨ (s.mode = .fast ∧ (i = .display ∨ ∃ x y w h, i = .refresh x y w h)))
      ∧ (s.hib = false → t.hib = true → i = .hibernate ∨ i = .sleep)
      ∧ (s.hib = true → t.hib = false → i = .reset ∨ i.mayInit = true)
      ∧ (s.inited = false → t.inited = true → i.mayInit = true)
      ∧ (s.inited = true → t.inited = false →
          i = .reset ∨ i = .hibernate ∨ i = .sleep ∨ ∃ m, i = .setmode m ∧ m ≠ s.mode)
      ∧ (s.platch = false → t.platch = true → i.mayInit = true ∧ s.mode = .part)
      ∧ (s.platch = true → t.platch = false →
          i = .pwroff ∨ i = .reset ∨ i = .hibernate ∨ i = .sleep ∨ (∃ m, i = .setmode m ∧ m ≠ s.mode)
            ∨ (s.mode = .fast ∧ (i = .display ∨ ∃ x y w h, i = .refresh x y w h))
            ∨ (i.mayInit = true ∧ s.mode ≠ .part ∧ (s.cfg.initResetPolicy = .always ∨ s.hib = true)))

/-- R169: the driver state machine over (INITED, INITMODE). The table is the spec's inference. -/
def Obligations.DriverStateMachine : Prop :=
  ∀ (i : Instr) (s t : State), s.Inv → exec i s = .next t →
    (i.mayInit = true → t.inited = true ∧ t.initMode = s.mode ∧ t.mode = s.mode)
      ∧ (∀ m, i = .setmode m → m ≠ s.mode → t.inited = false ∧ t.mode = m)
      ∧ (i = .setmode s.mode → t.inited = s.inited ∧ t.initMode = s.initMode ∧ t.mode = s.mode)
      ∧ (i = .hibernate ∨ i = .sleep ∨ i = .reset → t.inited = false)
      ∧ (i.mayInit = false → (∀ m, i ≠ .setmode m) → i ≠ .hibernate → i ≠ .sleep → i ≠ .reset →
          t.inited = s.inited ∧ t.initMode = s.initMode ∧ t.mode = s.mode)

/-- R249, R37: whether waits end by idle or by their bound, the operation completes in the same state and sends the same
commands: two states that differ in the BUSY inputs and the past trace only stay so. An inference of the spec. -/
def Obligations.TimeoutsChangeNothing : Prop :=
  ∀ (i : Instr) (s s' t : State), SameButInputs s s' → exec i s = .next t →
    ∃ t' es es', exec i s' = .next t' ∧ SameButInputs t t' ∧ t.trace = s.trace ++ es ∧ t'.trace = s'.trace ++ es'
      ∧ commandEvents es = commandEvents es'

/-- R92: a public operation emits only opcodes of the revision's map, each with a payload of its command's format (R81). -/
def Obligations.PublicOperationsEmitMappedCommands : Prop :=
  ∀ (i : Instr) (s t : State), s.cfg.wellFormed = true → i.isPublic = true → exec i s = .next t →
    ∃ es fs, t.trace = s.trace ++ es ∧ framesOf es = some fs
      ∧ ∀ f ∈ fs, ∃ n ∈ s.cfg.commands, f.op = s.cfg.opcode n ∧ n.payloadOk f.payload = true

/-- R42 (a), R142, R161 (V-S6): after Full to Partial to Full, an INIT sends the same commands as the first INIT of a fresh
Full-mode block, which has only the reset pulse in front. -/
def Obligations.ModeRoundTripReproducesInitialization : Prop :=
  ∀ s t1 t2 t3 u : State,
    s.cfg.initResetPolicy = .ifHibernating → s.mode = .full → s.hib = false →
    exec (.setmode .part) s = .next t1 → exec (.setmode .full) t1 = .next t2 → exec .init t2 = .next t3 →
    exec .init (State.construct s.cfg) = .next u →
      ∃ es, t3.trace = t2.trace ++ es
        ∧ commandEvents es =
            seqEvents s.cfg (s.cfg.initSeq.full ++ [(.displayUpdateControl2, some [s.cfg.ducPon]), (.masterActivation, none)])
        ∧ commandEvents u.trace = [.line .rst .low, .line .rst .high] ++ commandEvents es

/-- R116, R141, R142 (V-S7): after HIBERNATE, from any state, the next SETFRAME pulses reset and re-runs the full
initialization before any RAM write. -/
def Obligations.HibernateForcesReinitialization : Prop :=
  ∀ (buf : List Byte) (x y w h : Int) (s t u : State),
    exec .hibernate s = .next t → exec (.setframe buf x y w h) t = .next u →
      ∃ es, u.trace = t.trace ++ es
        ∧ commandEvents es =
            [.line .rst .low, .line .rst .high]
              ++ seqEvents s.cfg
                  (s.cfg.initSeq.get s.mode
                    ++ [(.displayUpdateControl2, some [s.cfg.ducPon]), (.masterActivation, none)]
                    ++ writeFrameSeq s.cfg s.mode s.orient buf (calcCoords x y w h))

/-- R244: a Fast DISPLAY leaves POWER Off and INITED as it was; on a block initialized for Fast, the next SETFRAME sends no
initialization and no power-on frame, and POWER stays Off. An inference of the spec (D23). -/
def Obligations.FastDisplayLeavesPowerOff : Prop :=
  ∀ (buf : List Byte) (x y w h : Int) (s t : State),
    s.mode = .fast → exec .display s = .next t →
      t.power = .off ∧ t.inited = s.inited
        ∧ (s.inited = true → s.initMode = .fast → s.hib = false → buf ≠ [] → frameDomain x y w h = true →
            exec (.setframe buf x y w h) t =
              .next (t.after (seqEvents s.cfg (writeFrameSeq s.cfg .fast s.orient buf (calcCoords x y w h)))))

/-! ## The reference model of the controller's RAM addressing (R58, informative, from general knowledge: log entries 20, 24) -/

/-- R133, R134, R135, R190: for a window on the panel the frames of SETRAMAREA are these five in this order, the entry mode
first, as the source asks, the columns and rows direct in Normal and mirrored in Inverted orientation, each row low byte first
with a high byte of zero. The order of the four address frames is the spec's decision (D22), the byte order D39. R58: in a
configuration whose opcode map is injective they leave the reference model's registers at the window's corners, its RAM
untouched. -/
def Obligations.WindowFramesSetReferenceRegisters : Prop :=
  ∀ (c : Cfg) (r : Window), r.OnPanel →
    ramAreaSeq c .normal r =
        [(.dataEntryMode, some [c.demNormal]),
         (.setRamXWindow, some [BitVec.ofInt 8 (r.x / 8), BitVec.ofInt 8 (r.xEnd / 8)]),
         (.setRamYWindow, some [BitVec.ofInt 8 r.y, 0x00, BitVec.ofInt 8 r.yEnd, 0x00]),
         (.setRamXCounter, some [BitVec.ofInt 8 (r.x / 8)]),
         (.setRamYCounter, some [BitVec.ofInt 8 r.y, 0x00])]
      ∧ ramAreaSeq c .inverted r =
        [(.dataEntryMode, some [c.demInverted]),
         (.setRamXWindow, some [BitVec.ofInt 8 (24 - r.x / 8), BitVec.ofInt 8 (24 - r.xEnd / 8)]),
         (.setRamYWindow, some [BitVec.ofInt 8 (199 - r.y), 0x00, BitVec.ofInt 8 (199 - r.yEnd), 0x00]),
         (.setRamXCounter, some [BitVec.ofInt 8 (24 - r.x / 8)]),
         (.setRamYCounter, some [BitVec.ofInt 8 (199 - r.y), 0x00])]
      ∧ ∀ (o : Orientation) (m : RefRam), c.wellFormed = true →
        RefRam.onFrames c (seqFrames c (ramAreaSeq c o r)) m = some { m with regs := regsFor c o r }

/-- R51, R57, R58: with entry mode 0x03, byte k of a window written in Normal orientation goes to column x/8 + k mod W, row y
+ k / W, W columns wide. -/
def Obligations.NormalWritesInRasterOrder : Prop :=
  ∀ (c : Cfg) (r : Window) (k : Nat), c.demNormal = 0x03 → r.OnPanel → k < r.byteCount →
    ((regsFor c .normal r).addresses r.byteCount)[k]? =
      some
        { col := BitVec.ofInt 8 (r.x / 8 + (k : Int) % ((r.xEnd - r.x) / 8 + 1))
          row := BitVec.ofInt 16 (r.y + (k : Int) / ((r.xEnd - r.x) / 8 + 1)) }

/-- R57, R58, R135: with entry modes 0x03 and 0x00, Inverted orientation sends every byte of a write to the 180° rotation of
the address it has in Normal orientation, however many bytes are written. -/
def Obligations.InvertedWritesAreRotated : Prop :=
  ∀ (c : Cfg) (r : Window) (n : Nat), c.demNormal = 0x03 → c.demInverted = 0x00 → r.OnPanel →
    (regsFor c .inverted r).addresses n = ((regsFor c .normal r).addresses n).map RamAddr.reflect
end

