-- ==== Sys2Proof/Laws/Config.lean ====
section
/-!
SUPPORT. The open parts of REV B's configuration keep to the limits the spec puts on them: the machine of either revision has a
well-formed configuration, whatever the open values are.
-/

namespace Sys2Proof

/-- Distinct places of the open map hold distinct bytes (R41). -/
theorem Config.openOpcByte_injective : Function.Injective Config.openOpcByte := by
  intro j k h
  have h' := congrArg BitVec.toNat h
  have hj := (Config.openOpcOrder j).isLt
  have hk := (Config.openOpcOrder k).isLt
  simp only [Config.openOpcByte, BitVec.toNat_ofNat] at h'
  exact Config.openOpcOrder.injective (Fin.ext (by split at h' <;> split at h' <;> omega))

/-- The open map keeps clear of the waveform registers 0x20 to 0x24 (R41). -/
theorem Config.openOpcByte_not_lut (k : Fin 251) :
    (Config.openOpcByte k).toNat < 0x20 ∨ 0x24 < (Config.openOpcByte k).toNat := by
  have hk := (Config.openOpcOrder k).isLt
  simp only [Config.openOpcByte, BitVec.toNat_ofNat]
  split <;> omega

/-- A sequence of the waveform pairs of five tables loads them (R43, R143). -/
theorem loadsTables_lutPairs (len : Nat → Fin 56) (byte : Nat → Nat → Byte) :
    loadsTables (lutPairs (Config.fiveTables len byte)) (Config.fiveTables len byte) = true := by
  simp [loadsTables, lutTablesOk, lutPairs, Config.fiveTables, Command.luts, List.range_succ, Command.isLut]

/-- No two commands of REV B's open map share an opcode (R41). -/
theorem Cfg.ofRevision_b_opcodes_nodup :
    ((Cfg.ofRevision .b).commands.map (Cfg.ofRevision .b).opcode).Nodup := by
  have e : (Cfg.ofRevision .b).commands.map (Cfg.ofRevision .b).opcode =
      [0x20, 0x21, 0x22, 0x23, 0x24]
        ++ ([0, 1, 2, 3, 4, 5, 6, 7, 8, 9, 10, 11, 12, 13] : List (Fin 251)).map Config.openOpcByte := rfl
  rw [e, List.nodup_append]
  refine ⟨by decide, (by decide : List.Nodup _).map Config.openOpcByte_injective, fun a ha b hb heq => ?_⟩
  obtain ⟨k, -, rfl⟩ := List.mem_map.1 hb
  have hk := Config.openOpcByte_not_lut k
  rw [← heq] at hk
  simp only [List.mem_cons, List.not_mem_nil, or_false] at ha
  rcases ha with rfl | rfl | rfl | rfl | rfl <;> exact absurd hk (by decide)

/-- The waveform pairs of five tables are pairs of REV B, each of its format (R42 (c), R81). -/
theorem Cfg.ofRevision_b_lutPairs_ok (len : Nat → Fin 56) (byte : Nat → Nat → Byte) :
    (lutPairs (Config.fiveTables len byte)).all (Cfg.ofRevision .b).pairOk = true := by
  have hc : ∀ n ∈ Command.luts, (Cfg.ofRevision .b).commands.contains n = true := by decide
  simpa [lutPairs, Config.fiveTables, Command.luts, List.range_succ, Cfg.pairOk, Command.payloadOk] using hc

/-- REV B's configuration with its open values meets R40 to R43 and R143, as REV A's default does. -/
theorem Cfg.ofRevision_wellFormed (r : Revision) : (Cfg.ofRevision r).wellFormed = true := by
  cases r with
  | a => decide
  | b =>
    have h1 := loadsTables_lutPairs Config.openLutFullLen Config.openLutFullByte
    have h2 := loadsTables_lutPairs Config.openLutPartLen Config.openLutPartByte
    have p1 := Cfg.ofRevision_b_lutPairs_ok Config.openLutFullLen Config.openLutFullByte
    have p2 := Cfg.ofRevision_b_lutPairs_ok Config.openLutPartLen Config.openLutPartByte
    simp only [Cfg.wellFormed, Bool.and_eq_true, decide_eq_true_eq]
    exact ⟨⟨⟨⟨⟨⟨⟨⟨Cfg.ofRevision_b_opcodes_nodup, by decide⟩, by decide⟩, by decide⟩, by decide⟩, p1⟩, p2⟩, p1⟩,
      Bool.and_eq_true_iff.2 ⟨h1, h2⟩⟩

end Sys2Proof
end

