-- ==== Sys2Proof/Laws/Memory.lean ====
section
/-!
SUPPORT. The laws of a RAM plane: a write keeps the canonical form, a read after it gives the byte written, and every other
address reads as before.
-/

namespace Sys2Proof.Machine

open Sys2Proof

theorem Memory.mem_write_fst (m : Memory) (a k : Nat) (b : Byte) (h : k ∈ (m.write a b).map Prod.fst) :
    k = a ∨ k ∈ m.map Prod.fst := by
  induction m with
  | nil => exact .inl (by simpa [Memory.write] using h)
  | cons c m ih =>
    obtain ⟨k', v⟩ := c
    simp only [Memory.write] at h
    split at h
    · simp only [List.map_cons, List.mem_cons] at h ⊢
      tauto
    · split at h
      · simp only [List.map_cons, List.mem_cons] at h ⊢
        tauto
      · simp only [List.map_cons, List.mem_cons] at h ⊢
        rcases h with h | h
        · exact .inr (.inl h)
        · rcases ih h with h | h
          · exact .inl h
          · exact .inr (.inr h)

/-- A write keeps the canonical form. -/
theorem Memory.write_wf (m : Memory) (a : Nat) (b : Byte) (h : m.wf) : (m.write a b).wf := by
  induction m with
  | nil => simp [Memory.write, Memory.wf]
  | cons c m ih =>
    obtain ⟨k, v⟩ := c
    have hc := List.pairwise_cons.1 (show ((k :: m.map Prod.fst).Pairwise (· < ·)) from h)
    simp only [Memory.write]
    split
    · rename_i hlt
      refine List.pairwise_cons.2 ⟨?_, h⟩
      intro x hx
      simp only [List.map_cons, List.mem_cons] at hx
      rcases hx with rfl | hx
      · exact hlt
      · exact Nat.lt_trans hlt (hc.1 x hx)
    · split
      · rename_i heq
        subst heq
        exact List.pairwise_cons.2 hc
      · rename_i hn hne
        refine List.pairwise_cons.2 ⟨?_, ih hc.2⟩
        intro x hx
        rcases Memory.mem_write_fst m a x b hx with rfl | hx
        · exact Nat.lt_of_le_of_ne (Nat.le_of_not_lt hn) (Ne.symm hne)
        · exact hc.1 x hx

/-- A read after a write to the same address gives the byte written. -/
theorem Memory.read_write_same (m : Memory) (a : Nat) (b : Byte) : (m.write a b).read a = some b := by
  induction m with
  | nil => simp [Memory.write, Memory.read]
  | cons c m ih =>
    obtain ⟨k, v⟩ := c
    simp only [Memory.write]
    split
    · simp [Memory.read]
    · split
      · simp [Memory.read]
      · rename_i hne
        simp [Memory.read, Ne.symm hne, ih]

/-- A write leaves every other address alone. -/
theorem Memory.read_write_other (m : Memory) (a a' : Nat) (b : Byte) (h : a' ≠ a) :
    (m.write a b).read a' = m.read a' := by
  induction m with
  | nil => simp [Memory.write, Memory.read, Ne.symm h]
  | cons c m ih =>
    obtain ⟨k, v⟩ := c
    simp only [Memory.write]
    split
    · simp [Memory.read, Ne.symm h]
    · split
      · rename_i heq
        subst heq
        simp [Memory.read, Ne.symm h]
      · simp only [Memory.read, ih]

end Sys2Proof.Machine
end

