-- ==== Sys2Proof/Laws/Controller.lean ====
section
/-!
SUPPORT. The laws of the reference model of the controller's RAM addressing (R58): what a step of the counters keeps, the step
for AM = 0, and that every frame keeps both planes in canonical form.
-/

namespace Sys2Proof.Machine

open Sys2Proof

@[simp] theorem RamRegs.advance_xs (r : RamRegs) : r.advance.xs = r.xs := by
  unfold RamRegs.advance
  repeat' split
  all_goals rfl

@[simp] theorem RamRegs.advance_xe (r : RamRegs) : r.advance.xe = r.xe := by
  unfold RamRegs.advance
  repeat' split
  all_goals rfl

@[simp] theorem RamRegs.advance_ys (r : RamRegs) : r.advance.ys = r.ys := by
  unfold RamRegs.advance
  repeat' split
  all_goals rfl

@[simp] theorem RamRegs.advance_ye (r : RamRegs) : r.advance.ye = r.ye := by
  unfold RamRegs.advance
  repeat' split
  all_goals rfl

@[simp] theorem RamRegs.advance_dem (r : RamRegs) : r.advance.dem = r.dem := by
  unfold RamRegs.advance
  repeat' split
  all_goals rfl

/-- With AM = 0 the column counter steps towards the window's edge, and there both counters go on to the next row (R58). -/
theorem RamRegs.advance_of_am_zero (r : RamRegs) (h : r.dem.getLsbD 2 = false) :
    r.advance =
      if r.xc = r.xe then
        { r with
          xc := r.xs
          yc := if r.yc = r.ye then r.ys else if r.dem.getLsbD 1 then r.yc + 1 else r.yc - 1 }
      else { r with xc := if r.dem.getLsbD 0 then r.xc + 1 else r.xc - 1 } := by
  rw [RamRegs.advance, h, if_neg Bool.false_ne_true]

/-- Storing data bytes keeps a plane in canonical form. -/
theorem storeBytes_wf (bytes : List Byte) (r : RamRegs) (m m' : Memory) (hm : m.wf) (h : storeBytes bytes r m = some m') :
    m'.wf := by
  induction bytes generalizing r m with
  | nil =>
    cases h
    exact hm
  | cons b bs ih =>
    simp only [storeBytes] at h
    split at h
    · exact ih _ _ (Memory.write_wf m _ b hm) h
    · cases h

/-- A buffer sent from the window's start with another length than the window's leaves the RAM unknown (R164, U3). -/
theorem RefRam.writeBw_of_mismatch (m : RefRam) (bytes : List Byte) (hs : m.regs.atStart = true)
    (hl : bytes.length ≠ m.regs.windowCount) : m.writeBw bytes = some (m.forget bytes.length) := by
  simp [RefRam.writeBw, hs, hl]

/-- The red plane's data after such a buffer leave it unknown (R164, U3). -/
theorem RefRam.writeRed_of_mismatched (m : RefRam) (bytes : List Byte) (h : m.mismatched = true) :
    m.writeRed bytes = some (m.forget bytes.length) := by
  simp [RefRam.writeRed, h]

/-- Every command keeps both planes in canonical form. -/
theorem RefRam.onCommand_wf (c : Cfg) (m m' : RefRam) (n : Command) (p : List Byte) (hb : m.bw.wf) (hr : m.red.wf)
    (h : m.onCommand c n p = some m') : m'.bw.wf ∧ m'.red.wf := by
  unfold RefRam.onCommand at h
  split at h
  case h_6 =>
    unfold RefRam.writeBw at h
    split at h
    · cases h
      exact ⟨List.Pairwise.nil, List.Pairwise.nil⟩
    · obtain ⟨bw, hs, rfl⟩ := Option.map_eq_some_iff.1 h
      exact ⟨storeBytes_wf _ _ _ _ hb hs, hr⟩
  case h_7 =>
    unfold RefRam.writeRed at h
    split at h
    · cases h
      exact ⟨List.Pairwise.nil, List.Pairwise.nil⟩
    · obtain ⟨red, hs, rfl⟩ := Option.map_eq_some_iff.1 h
      exact ⟨hb, storeBytes_wf _ _ _ _ hr hs⟩
  case h_9 =>
    unfold RefRam.activate at h
    split at h
    · cases h
      exact ⟨hb, hr⟩
    · cases h
  all_goals
    cases h
    try exact ⟨hb, hr⟩

/-- Every frame keeps both planes in canonical form. -/
theorem RefRam.onFrame_wf (c : Cfg) (f : Frame) (m m' : RefRam) (hb : m.bw.wf) (hr : m.red.wf) (h : m.onFrame c f = some m') :
    m'.bw.wf ∧ m'.red.wf := by
  obtain ⟨n, -, hn⟩ := Option.bind_eq_some_iff.1 h
  split at hn
  · exact RefRam.onCommand_wf c m m' n _ hb hr hn
  · cases hn

end Sys2Proof.Machine
end

