-- ==== Sys2Proof/Laws/Decode.lean ====
section
/-!
SUPPORT. The small lemmas of the encoding: integer operands and row fields are read back as they were written, whatever
follows them.
-/

namespace Sys2Proof

theorem decodeNat_encodeNatFuel (fuel n : Nat) (rest : List Byte) (h : n ≤ fuel) :
    decodeNat (encodeNatFuel fuel n ++ rest) = some (n, rest) := by
  induction fuel generalizing n with
  | zero =>
    have : n = 0 := by omega
    subst this
    simp [encodeNatFuel, decodeNat]
  | succ fuel ih =>
    unfold encodeNatFuel
    split
    · rename_i hn
      simp only [List.cons_append, List.nil_append, decodeNat, BitVec.toNat_ofNat]
      have : n % 256 = n := Nat.mod_eq_of_lt (by omega)
      simp [this, hn]
    · rename_i hn
      have hm : (n % 128 + 128) % 2 ^ 8 = n % 128 + 128 := Nat.mod_eq_of_lt (by omega)
      have hlt : ¬ n % 128 + 128 < 128 := by omega
      simp only [List.cons_append, decodeNat, BitVec.toNat_ofNat, hm, hlt, if_false, ih (n / 128) (by omega), Option.map_some]
      congr 2
      omega

theorem decodeNat_encodeNat (n : Nat) (rest : List Byte) : decodeNat (encodeNat n ++ rest) = some (n, rest) :=
  decodeNat_encodeNatFuel n n rest (Nat.le_refl n)

theorem unzigzag_zigzag (v : Int) : unzigzag (zigzag v) = v := by
  unfold zigzag unzigzag
  split <;> split <;> omega

/-- An integer operand is read back, whatever follows it. -/
theorem decodeInt_encodeInt (v : Int) (rest : List Byte) : decodeInt (encodeInt v ++ rest) = some (v, rest) := by
  simp [decodeInt, encodeInt, decodeNat_encodeNat, unzigzag_zigzag]

/-- Four integer operands are read back. -/
theorem decodeInts4_encode (x y w h : Int) (rest : List Byte) :
    decodeInts4 (encodeInt x ++ (encodeInt y ++ (encodeInt w ++ (encodeInt h ++ rest)))) = some (x, y, w, h, rest) := by
  simp [decodeInts4, decodeInt_encodeInt]

/-- A row field is read back from its two bytes, low byte first (R59). -/
theorem rowOf_rowBytes (r : Word16) : rowOf (lo8 r.toNat) (hi8 r.toNat) = r := by
  apply BitVec.eq_of_toNat_eq
  have h := r.isLt
  have h1 : (lo8 r.toNat).toNat = r.toNat % 256 := by
    simp only [lo8, BitVec.toNat_ofInt]
    omega
  have h2 : (hi8 r.toNat).toNat = r.toNat / 256 % 256 := by
    simp only [hi8, BitVec.toNat_ofInt]
    omega
  rw [rowOf, BitVec.toNat_append, h1, h2, Nat.shiftLeft_eq, ← Nat.mul_comm,
    ← Nat.two_pow_add_eq_or_of_lt (i := 8) (by omega) (r.toNat / 256 % 256)]
  omega

end Sys2Proof
end

