-- ==== Sys2Proof/Laws/State.lean ====
section
/-!
SUPPORT. One lemma per field per update of the state, so that no later proof unfolds a record update: emitting an event, the
closed form `State.after`, and the flag operations of R38.
-/

namespace Sys2Proof.Machine

open Sys2Proof

/-! ### Emitting one event changes the latches and the trace only (R10) -/

@[simp] theorem State.emit_mode (s : State) (e : Event) : (s.emit e).mode = s.mode := rfl
@[simp] theorem State.emit_orient (s : State) (e : Event) : (s.emit e).orient = s.orient := rfl
@[simp] theorem State.emit_power (s : State) (e : Event) : (s.emit e).power = s.power := rfl
@[simp] theorem State.emit_hib (s : State) (e : Event) : (s.emit e).hib = s.hib := rfl
@[simp] theorem State.emit_inited (s : State) (e : Event) : (s.emit e).inited = s.inited := rfl
@[simp] theorem State.emit_initMode (s : State) (e : Event) : (s.emit e).initMode = s.initMode := rfl
@[simp] theorem State.emit_platch (s : State) (e : Event) : (s.emit e).platch = s.platch := rfl
@[simp] theorem State.emit_first (s : State) (e : Event) : (s.emit e).first = s.first := rfl
@[simp] theorem State.emit_pos (s : State) (e : Event) : (s.emit e).pos = s.pos := rfl
@[simp] theorem State.emit_cfg (s : State) (e : Event) : (s.emit e).cfg = s.cfg := rfl
@[simp] theorem State.emit_port (s : State) (e : Event) : (s.emit e).port = s.port := rfl
@[simp] theorem State.emit_busyIn (s : State) (e : Event) : (s.emit e).busyIn = s.busyIn := rfl
@[simp] theorem State.emit_polls (s : State) (e : Event) : (s.emit e).polls = s.polls := rfl
@[simp] theorem State.emit_trace (s : State) (e : Event) : (s.emit e).trace = s.trace ++ [e] := rfl
@[simp] theorem State.emit_dc (s : State) (e : Event) : (s.emit e).dc = (e.drives .dc).or s.dc := rfl
@[simp] theorem State.emit_cs (s : State) (e : Event) : (s.emit e).cs = (e.drives .cs).or s.cs := rfl
@[simp] theorem State.emit_rst (s : State) (e : Event) : (s.emit e).rst = (e.drives .rst).getD s.rst := rfl

/-! ### The closed form of a list of events changes the latches, the trace and the inputs only -/

@[simp] theorem State.after_mode (s : State) (es : List Event) : (s.after es).mode = s.mode := rfl
@[simp] theorem State.after_orient (s : State) (es : List Event) : (s.after es).orient = s.orient := rfl
@[simp] theorem State.after_power (s : State) (es : List Event) : (s.after es).power = s.power := rfl
@[simp] theorem State.after_hib (s : State) (es : List Event) : (s.after es).hib = s.hib := rfl
@[simp] theorem State.after_inited (s : State) (es : List Event) : (s.after es).inited = s.inited := rfl
@[simp] theorem State.after_initMode (s : State) (es : List Event) : (s.after es).initMode = s.initMode := rfl
@[simp] theorem State.after_platch (s : State) (es : List Event) : (s.after es).platch = s.platch := rfl
@[simp] theorem State.after_first (s : State) (es : List Event) : (s.after es).first = s.first := rfl
@[simp] theorem State.after_pos (s : State) (es : List Event) : (s.after es).pos = s.pos := rfl
@[simp] theorem State.after_cfg (s : State) (es : List Event) : (s.after es).cfg = s.cfg := rfl
@[simp] theorem State.after_port (s : State) (es : List Event) : (s.after es).port = s.port := rfl
@[simp] theorem State.after_trace (s : State) (es : List Event) : (s.after es).trace = s.trace ++ es := rfl
@[simp] theorem State.after_busyIn (s : State) (es : List Event) : (s.after es).busyIn = s.busyIn.drop (pollCount es) := rfl
@[simp] theorem State.after_polls (s : State) (es : List Event) : (s.after es).polls = s.polls + pollCount es := rfl
@[simp] theorem State.after_dc (s : State) (es : List Event) : (s.after es).dc = (lastDrive .dc es).or s.dc := rfl
@[simp] theorem State.after_cs (s : State) (es : List Event) : (s.after es).cs = (lastDrive .cs es).or s.cs := rfl
@[simp] theorem State.after_rst (s : State) (es : List Event) : (s.after es).rst = (lastDrive .rst es).getD s.rst := rfl

/-! ### The flag operations (R38) -/

@[simp] theorem State.clearTracking_mode (s : State) : s.clearTracking.mode = s.mode := rfl
@[simp] theorem State.clearTracking_orient (s : State) : s.clearTracking.orient = s.orient := rfl
@[simp] theorem State.clearTracking_power (s : State) : s.clearTracking.power = .off := rfl
@[simp] theorem State.clearTracking_hib (s : State) : s.clearTracking.hib = false := rfl
@[simp] theorem State.clearTracking_inited (s : State) : s.clearTracking.inited = false := rfl
@[simp] theorem State.clearTracking_initMode (s : State) : s.clearTracking.initMode = s.initMode := rfl
@[simp] theorem State.clearTracking_platch (s : State) : s.clearTracking.platch = false := rfl
@[simp] theorem State.clearTracking_first (s : State) : s.clearTracking.first = s.first := rfl
@[simp] theorem State.clearTracking_dc (s : State) : s.clearTracking.dc = s.dc := rfl
@[simp] theorem State.clearTracking_cs (s : State) : s.clearTracking.cs = s.cs := rfl
@[simp] theorem State.clearTracking_rst (s : State) : s.clearTracking.rst = s.rst := rfl
@[simp] theorem State.clearTracking_trace (s : State) : s.clearTracking.trace = s.trace := rfl
@[simp] theorem State.clearTracking_pos (s : State) : s.clearTracking.pos = s.pos := rfl
@[simp] theorem State.clearTracking_cfg (s : State) : s.clearTracking.cfg = s.cfg := rfl
@[simp] theorem State.clearTracking_port (s : State) : s.clearTracking.port = s.port := rfl
@[simp] theorem State.clearTracking_busyIn (s : State) : s.clearTracking.busyIn = s.busyIn := rfl
@[simp] theorem State.clearTracking_polls (s : State) : s.clearTracking.polls = s.polls := rfl

@[simp] theorem State.markHibernating_mode (s : State) : s.markHibernating.mode = s.mode := rfl
@[simp] theorem State.markHibernating_orient (s : State) : s.markHibernating.orient = s.orient := rfl
@[simp] theorem State.markHibernating_power (s : State) : s.markHibernating.power = s.power := rfl
@[simp] theorem State.markHibernating_hib (s : State) : s.markHibernating.hib = true := rfl
@[simp] theorem State.markHibernating_inited (s : State) : s.markHibernating.inited = false := rfl
@[simp] theorem State.markHibernating_initMode (s : State) : s.markHibernating.initMode = s.initMode := rfl
@[simp] theorem State.markHibernating_platch (s : State) : s.markHibernating.platch = s.platch := rfl
@[simp] theorem State.markHibernating_first (s : State) : s.markHibernating.first = s.first := rfl
@[simp] theorem State.markHibernating_dc (s : State) : s.markHibernating.dc = s.dc := rfl
@[simp] theorem State.markHibernating_cs (s : State) : s.markHibernating.cs = s.cs := rfl
@[simp] theorem State.markHibernating_rst (s : State) : s.markHibernating.rst = s.rst := rfl
@[simp] theorem State.markHibernating_trace (s : State) : s.markHibernating.trace = s.trace := rfl
@[simp] theorem State.markHibernating_pos (s : State) : s.markHibernating.pos = s.pos := rfl
@[simp] theorem State.markHibernating_cfg (s : State) : s.markHibernating.cfg = s.cfg := rfl
@[simp] theorem State.markHibernating_port (s : State) : s.markHibernating.port = s.port := rfl
@[simp] theorem State.markHibernating_busyIn (s : State) : s.markHibernating.busyIn = s.busyIn := rfl
@[simp] theorem State.markHibernating_polls (s : State) : s.markHibernating.polls = s.polls := rfl

@[simp] theorem State.markInitialized_mode (s : State) : s.markInitialized.mode = s.mode := rfl
@[simp] theorem State.markInitialized_orient (s : State) : s.markInitialized.orient = s.orient := rfl
@[simp] theorem State.markInitialized_power (s : State) : s.markInitialized.power = s.power := rfl
@[simp] theorem State.markInitialized_hib (s : State) : s.markInitialized.hib = s.hib := rfl
@[simp] theorem State.markInitialized_inited (s : State) : s.markInitialized.inited = true := rfl
@[simp] theorem State.markInitialized_initMode (s : State) : s.markInitialized.initMode = s.mode := rfl
@[simp] theorem State.markInitialized_platch (s : State) : s.markInitialized.platch = if s.mode = .part then true else s.platch := rfl
@[simp] theorem State.markInitialized_first (s : State) : s.markInitialized.first = s.first := rfl
@[simp] theorem State.markInitialized_dc (s : State) : s.markInitialized.dc = s.dc := rfl
@[simp] theorem State.markInitialized_cs (s : State) : s.markInitialized.cs = s.cs := rfl
@[simp] theorem State.markInitialized_rst (s : State) : s.markInitialized.rst = s.rst := rfl
@[simp] theorem State.markInitialized_trace (s : State) : s.markInitialized.trace = s.trace := rfl
@[simp] theorem State.markInitialized_pos (s : State) : s.markInitialized.pos = s.pos := rfl
@[simp] theorem State.markInitialized_cfg (s : State) : s.markInitialized.cfg = s.cfg := rfl
@[simp] theorem State.markInitialized_port (s : State) : s.markInitialized.port = s.port := rfl
@[simp] theorem State.markInitialized_busyIn (s : State) : s.markInitialized.busyIn = s.busyIn := rfl
@[simp] theorem State.markInitialized_polls (s : State) : s.markInitialized.polls = s.polls := rfl

@[simp] theorem State.retire_mode (s : State) : s.retire.mode = s.mode := rfl
@[simp] theorem State.retire_orient (s : State) : s.retire.orient = s.orient := rfl
@[simp] theorem State.retire_power (s : State) : s.retire.power = s.power := rfl
@[simp] theorem State.retire_hib (s : State) : s.retire.hib = s.hib := rfl
@[simp] theorem State.retire_inited (s : State) : s.retire.inited = s.inited := rfl
@[simp] theorem State.retire_initMode (s : State) : s.retire.initMode = s.initMode := rfl
@[simp] theorem State.retire_platch (s : State) : s.retire.platch = s.platch := rfl
@[simp] theorem State.retire_first (s : State) : s.retire.first = s.first := rfl
@[simp] theorem State.retire_dc (s : State) : s.retire.dc = s.dc := rfl
@[simp] theorem State.retire_cs (s : State) : s.retire.cs = s.cs := rfl
@[simp] theorem State.retire_rst (s : State) : s.retire.rst = s.rst := rfl
@[simp] theorem State.retire_trace (s : State) : s.retire.trace = s.trace := rfl
@[simp] theorem State.retire_pos (s : State) : s.retire.pos = s.pos + 1 := rfl
@[simp] theorem State.retire_cfg (s : State) : s.retire.cfg = s.cfg := rfl
@[simp] theorem State.retire_port (s : State) : s.retire.port = s.port := rfl
@[simp] theorem State.retire_busyIn (s : State) : s.retire.busyIn = s.busyIn := rfl
@[simp] theorem State.retire_polls (s : State) : s.retire.polls = s.polls := rfl

end Sys2Proof.Machine
end

