-- ==== Sys2Proof/Laws/Ops.lean ====
section
/-!
SUPPORT. What each shared operation can do, said once: emitting a list of events, a command frame, a CommandSequence and a
bounded wait all end in the closed form `State.after` of the events they emit. A proof about an operation rewrites with these
and reads the fields off `after`.
-/

namespace Sys2Proof.Machine

open Sys2Proof

/-! ### Lists of events -/

theorem foldl_drives (l : Line) (es : List Event) (o : Option Level) :
    es.foldl (fun acc e => (e.drives l).or acc) o = (lastDrive l es).or o := by
  induction es generalizing o with
  | nil => rfl
  | cons e es ih =>
    simp only [List.foldl_cons, lastDrive] at ih ⊢
    rw [ih, ih ((e.drives l).or none)]
    cases List.foldl (fun acc e => (e.drives l).or acc) none es <;> cases e.drives l <;> rfl

@[simp] theorem lastDrive_nil (l : Line) : lastDrive l [] = none := rfl

theorem lastDrive_cons (l : Line) (e : Event) (es : List Event) :
    lastDrive l (e :: es) = (lastDrive l es).or (e.drives l) := by
  have h := foldl_drives l es ((e.drives l).or none)
  simpa [lastDrive] using h

theorem lastDrive_append (l : Line) (a b : List Event) :
    lastDrive l (a ++ b) = (lastDrive l b).or (lastDrive l a) := by
  unfold lastDrive
  rw [List.foldl_append, foldl_drives]
  rfl

@[simp] theorem pollCount_nil : pollCount [] = 0 := rfl

theorem pollCount_append (a b : List Event) : pollCount (a ++ b) = pollCount a + pollCount b := by
  simp [pollCount, List.countP_append]

/-! ### The closed form -/

@[simp] theorem State.after_nil (s : State) : s.after [] = s := by
  cases s
  simp [State.after]

/-- Two runs of events one after the other are one run of both. -/
theorem State.after_append (s : State) (a b : List Event) : s.after (a ++ b) = (s.after a).after b := by
  have h1 : ∀ (x y : Option Level) (z : Level), (x.or y).getD z = x.getD (y.getD z) := by
    intro x y z
    cases x <;> rfl
  simp only [State.after, lastDrive_append, pollCount_append, Option.or_assoc, h1, List.append_assoc, List.drop_drop,
    Nat.add_assoc]

theorem State.emit_eq_after (s : State) (e : Event) (h : e.isPoll = false) : s.emit e = s.after [e] := by
  have hp : pollCount [e] = 0 := by simp [pollCount, h]
  cases s
  simp [State.emit, State.after, lastDrive_cons, hp]

/-- Emitting events in order, none of them a poll, is the closed form of the list. -/
theorem State.emitAll_eq_after (s : State) (es : List Event) (h : ∀ e ∈ es, e.isPoll = false) :
    s.emitAll es = s.after es := by
  induction es generalizing s with
  | nil => simp [State.emitAll]
  | cons e es ih =>
    have he : e.isPoll = false := h e (by simp)
    have hes : ∀ e' ∈ es, e'.isPoll = false := fun e' m => h e' (by simp [m])
    have hc : e :: es = [e] ++ es := rfl
    rw [hc, State.after_append, ← State.emit_eq_after s e he, ← ih (s.emit e) hes]
    rfl

/-- A poll takes one level and records it. -/
theorem State.poll_eq_after (s : State) : s.poll = s.after [.poll s.busyLevel] := by
  cases s
  simp [State.poll, State.emit, State.after, lastDrive_cons, pollCount, Event.isPoll, Event.drives, List.drop_one]

theorem State.pause_eq_after (s : State) (ms : Nat) : s.pause ms = s.after [.sleep ms] :=
  State.emit_eq_after s _ rfl

/-! ### Command frames and sequences -/

theorem transaction_no_poll (b : Bool) (l : List Byte) : ∀ e ∈ transaction b l, e.isPoll = false := by
  cases b <;> simp [transaction, Event.isPoll]

theorem frameEvents_no_poll (b : Bool) (op : Byte) (p : Option (List Byte)) :
    ∀ e ∈ frameEvents b op p, e.isPoll = false := by
  have hl : ∀ v, (Event.line .dc v).isPoll = false := fun _ => rfl
  intro e he
  cases p with
  | none =>
    simp only [frameEvents, List.append_nil, List.mem_cons] at he
    rcases he with rfl | he
    · rfl
    · exact transaction_no_poll b _ e he
  | some p =>
    simp only [frameEvents, List.cons_append, List.mem_cons, List.mem_append] at he
    rcases he with rfl | he | rfl | he
    · rfl
    · exact transaction_no_poll b _ e he
    · rfl
    · exact transaction_no_poll b _ e he

/-- SENDCMD is the closed form of its frame's events (R100). -/
theorem State.sendCmd_eq_after (s : State) (op : Byte) (p : Option (List Byte)) :
    s.sendCmd op p = s.after (frameEvents s.cfg.hasCs op p) :=
  State.emitAll_eq_after s _ (frameEvents_no_poll _ _ _)

theorem State.send_eq_after (s : State) (n : Command) (p : Option (List Byte)) :
    s.send n p = s.after (frameEvents s.cfg.hasCs (s.cfg.opcode n) p) :=
  State.sendCmd_eq_after s _ p

theorem seqEvents_append (c : Cfg) (a b : CommandSeq) : seqEvents c (a ++ b) = seqEvents c a ++ seqEvents c b := by
  simp [seqEvents]

/-- Playing a CommandSequence is the closed form of its events (R24, R42). -/
theorem State.playSeq_eq_after (s : State) (q : CommandSeq) : s.playSeq q = s.after (seqEvents s.cfg q) := by
  induction q generalizing s with
  | nil => simp [State.playSeq, seqEvents]
  | cons p q ih =>
    have hc : seqEvents s.cfg (p :: q) = frameEvents s.cfg.hasCs (s.cfg.opcode p.1) p.2 ++ seqEvents s.cfg q := by
      simp [seqEvents]
    have hs : s.playSeq (p :: q) = (s.send p.1 p.2).playSeq q := rfl
    rw [hs, ih, State.send_eq_after, hc, State.after_append]
    rfl

/-! ### The bounded wait -/

theorem State.inputAt_zero (s : State) : s.inputAt 0 = s.busyLevel := by
  simp [State.inputAt, State.busyLevel]

theorem State.inputAt_after (s : State) (es : List Event) (j : Nat) :
    (s.after es).inputAt j = s.inputAt (pollCount es + j) := by
  simp [State.inputAt, List.drop_drop, Nat.add_assoc]

theorem ceilDiv_zero (p : Nat) (hp : 0 < p) : ceilDiv 0 p = 0 := by
  unfold ceilDiv
  exact Nat.div_eq_of_lt (by omega)

/-- One interval less leaves one sleep less. -/
theorem ceilDiv_sub (t p : Nat) (hp : 0 < p) (ht : 0 < t) : ceilDiv t p = ceilDiv (t - p) p + 1 := by
  unfold ceilDiv
  by_cases h : t ≤ p
  · have h1 : t - p = 0 := by omega
    have h2 : t + p - 1 = (t - 1) + p := by omega
    rw [h1, h2, Nat.add_div_right _ hp, Nat.div_eq_of_lt (show t - 1 < p by omega),
      Nat.div_eq_of_lt (show 0 + p - 1 < p by omega)]
  · have h2 : t + p - 1 = (t - p + p - 1) + p := by omega
    rw [h2, Nat.add_div_right _ hp]

/-- The loop of R111 is the closed form of at most ceil(remaining / POLL_MS) busy answers and one last poll. -/
theorem State.pollLoop_eq_after (fuel t : Nat) (s : State) (hp : 0 < s.cfg.pollMs) (hf : t < fuel) :
    State.pollLoop fuel t s =
      (let k := busySpan (fun j => s.cfg.isBusy (s.inputAt j)) (ceilDiv t s.cfg.pollMs)
       s.after ((List.range k).flatMap (fun j => [Event.poll (s.inputAt j), Event.sleep s.cfg.pollMs])
        ++ [Event.poll (s.inputAt k)])) := by
  induction fuel generalizing t s with
  | zero => omega
  | succ fuel ih =>
    unfold State.pollLoop
    by_cases hb : s.cfg.isBusy s.busyLevel = true
    · by_cases ht : t = 0
      · subst ht
        simp [hb, ceilDiv_zero _ hp, busySpan, State.inputAt_zero, State.poll_eq_after]
      · have hstep : s.poll.pause s.cfg.pollMs = s.after [.poll s.busyLevel, .sleep s.cfg.pollMs] := by
          rw [State.pause_eq_after, State.poll_eq_after, ← State.after_append]
          rfl
        have hin : ∀ j, (s.after [.poll s.busyLevel, .sleep s.cfg.pollMs]).inputAt j = s.inputAt (j + 1) := by
          intro j
          rw [State.inputAt_after]
          have hc : pollCount [.poll s.busyLevel, .sleep s.cfg.pollMs] = 1 := rfl
          rw [hc, Nat.add_comm]
        simp only [hb, Bool.not_true, ht, if_false, Bool.false_eq_true, hstep]
        rw [ih (t - s.cfg.pollMs) _ (by simpa using hp) (by omega)]
        simp only [State.after_cfg, hin, ceilDiv_sub t _ hp (by omega), busySpan, State.inputAt_zero, hb, if_true,
          List.range_succ_eq_map, List.flatMap_cons, List.flatMap_map, ← State.after_append]
        rfl
    · have hb' : s.cfg.isBusy s.busyLevel = false := by simpa using hb
      have hk : busySpan (fun j => s.cfg.isBusy (s.inputAt j)) (ceilDiv t s.cfg.pollMs) = 0 := by
        cases ceilDiv t s.cfg.pollMs <;> simp [busySpan, State.inputAt_zero, hb']
      simp [hb', hk, State.inputAt_zero, State.poll_eq_after]

/-- The loop of R112 is the closed form of ceil(remaining / NOBUSY_STEP_MS) sleeps. -/
theorem State.sleepLoop_eq_after (fuel t : Nat) (s : State) (hp : 0 < s.cfg.noBusyStepMs) (hf : t ≤ fuel) :
    State.sleepLoop fuel t s =
      s.after (List.replicate (ceilDiv t s.cfg.noBusyStepMs) (.sleep s.cfg.noBusyStepMs)) := by
  induction fuel generalizing t s with
  | zero =>
    have : t = 0 := by omega
    subst this
    simp [State.sleepLoop, ceilDiv_zero _ hp]
  | succ fuel ih =>
    unfold State.sleepLoop
    by_cases ht : t = 0
    · subst ht
      simp [ceilDiv_zero _ hp]
    · have hc : (s.pause s.cfg.noBusyStepMs).cfg = s.cfg := by simp [State.pause]
      simp only [ht, if_false]
      rw [ih _ _ (by simpa [State.pause] using hp) (by omega), hc, State.pause_eq_after, ← State.after_append,
        ceilDiv_sub t _ hp (by omega), List.replicate_succ]
      rfl

/-- WAITIDLE(t) is the closed form of its events (R110 to R112), for intervals that are positive (R40). -/
theorem State.waitIdle_eq_after (s : State) (t : Nat) (h : s.cfg.Timed) : s.waitIdle t = s.after (s.waitEvents t) := by
  unfold State.waitIdle State.waitEvents
  cases s.cfg.hasBusy
  · simpa using State.sleepLoop_eq_after t t s h.2 (Nat.le_refl t)
  · simpa using State.pollLoop_eq_after (t + 1) t s h.1 (by omega)

/-- A CommandSequence followed by a wait is the closed form of both. -/
theorem State.playSeq_waitIdle_eq_after (s : State) (q : CommandSeq) (t : Nat) (h : s.cfg.Timed) :
    (s.playSeq q).waitIdle t = s.after (s.seqThenWait q t) := by
  rw [State.playSeq_eq_after, State.waitIdle_eq_after _ _ (by simpa using h), State.seqThenWait, State.after_append]

/-! ### What a wait keeps, without an assumption on the configuration -/

/-- An event of a wait: a poll, only where there is a busy line (R111), or a sleep. -/
def Event.isWait (c : Cfg) (e : Event) : Prop :=
  (e.isPoll = true ∧ c.hasBusy = true) ∨ e.isSleep = true

theorem State.pollLoop_keeps (fuel t : Nat) (s : State) (hb : s.cfg.hasBusy = true) :
    ∃ es, State.pollLoop fuel t s = s.after es ∧ ∀ e ∈ es, e.isWait s.cfg := by
  induction fuel generalizing t s with
  | zero => exact ⟨[], by simp [State.pollLoop], by simp⟩
  | succ fuel ih =>
    unfold State.pollLoop
    split
    · exact ⟨_, State.poll_eq_after s, by simp [Event.isWait, Event.isPoll, hb]⟩
    · split
      · exact ⟨_, State.poll_eq_after s, by simp [Event.isWait, Event.isPoll, hb]⟩
      · have hs : s.poll.pause s.cfg.pollMs = s.after ([.poll s.busyLevel] ++ [.sleep s.cfg.pollMs]) := by
          rw [State.pause_eq_after, State.poll_eq_after, State.after_append]
        obtain ⟨es, he, hm⟩ := ih (t - s.cfg.pollMs) (s.poll.pause s.cfg.pollMs) (by rw [hs]; exact hb)
        refine ⟨[.poll s.busyLevel] ++ [.sleep s.cfg.pollMs] ++ es, by rw [he, hs, ← State.after_append], ?_⟩
        intro e h
        simp only [List.cons_append, List.nil_append, List.mem_cons] at h
        rcases h with rfl | rfl | h
        · exact .inl ⟨rfl, hb⟩
        · exact .inr rfl
        · have := hm e h
          rwa [hs] at this

theorem State.sleepLoop_keeps (fuel t : Nat) (s : State) :
    ∃ es, State.sleepLoop fuel t s = s.after es ∧ ∀ e ∈ es, e.isWait s.cfg := by
  induction fuel generalizing t s with
  | zero => exact ⟨[], by simp [State.sleepLoop], by simp⟩
  | succ fuel ih =>
    unfold State.sleepLoop
    split
    · exact ⟨[], by simp, by simp⟩
    · obtain ⟨es, he, hm⟩ := ih (t - s.cfg.noBusyStepMs) (s.pause s.cfg.noBusyStepMs)
      rw [State.pause_eq_after] at he hm
      refine ⟨[.sleep s.cfg.noBusyStepMs] ++ es, by rw [State.pause_eq_after, he, ← State.after_append], ?_⟩
      intro e h
      simp only [List.cons_append, List.nil_append, List.mem_cons] at h
      rcases h with rfl | h
      · exact .inr rfl
      · exact hm e h

/-- A wait keeps every field but the trace and the inputs, whatever the configuration. -/
theorem State.waitIdle_keeps (s : State) (t : Nat) :
    ∃ es, s.waitIdle t = s.after es ∧ ∀ e ∈ es, e.isWait s.cfg := by
  unfold State.waitIdle
  split
  · exact State.pollLoop_keeps _ _ s (by assumption)
  · exact State.sleepLoop_keeps _ _ s

end Sys2Proof.Machine
end

