-- ==== Sys2Proof/Laws/Strategy.lean ====
section
/-!
SUPPORT. What the compound operations can do, said once: PWRON, PWROFF, RESETPULSE, SETRAMAREA, WRITEFRAME and ACTIVATE in the
closed form `State.after`, and the order of their field updates.
-/

namespace Sys2Proof.Machine

open Sys2Proof

/-! ### Which events drive which line -/

theorem lastDrive_none_of (l : Line) (es : List Event) (h : ∀ e ∈ es, e.drives l = none) : lastDrive l es = none := by
  induction es with
  | nil => rfl
  | cons e es ih =>
    rw [lastDrive_cons, ih (fun e' m => h e' (by simp [m])), h e (by simp)]
    rfl

/-- A frame does not drive the reset line. -/
theorem frameEvents_drives_rst (b : Bool) (op : Byte) (p : Option (List Byte)) :
    ∀ e ∈ frameEvents b op p, e.drives .rst = none := by
  cases b <;> cases p <;> simp [frameEvents, transaction, Event.drives]

theorem seqEvents_drives_rst (c : Cfg) (q : CommandSeq) : ∀ e ∈ seqEvents c q, e.drives .rst = none := by
  intro e he
  obtain ⟨p, _, hp⟩ := List.mem_flatMap.1 he
  exact frameEvents_drives_rst _ _ _ e hp

theorem seqEvents_no_poll (c : Cfg) (q : CommandSeq) : ∀ e ∈ seqEvents c q, e.isPoll = false := by
  intro e he
  obtain ⟨p, _, hp⟩ := List.mem_flatMap.1 he
  exact frameEvents_no_poll _ _ _ e hp

theorem waitEvents_poll_or_sleep (s : State) (t : Nat) :
    ∀ e ∈ s.waitEvents t, e.isPoll = true ∨ e.isSleep = true := by
  intro e he
  unfold State.waitEvents at he
  split at he
  · simp only [List.mem_append, List.mem_flatMap, List.mem_cons, List.not_mem_nil, or_false] at he
    rcases he with ⟨j, _, rfl | rfl⟩ | rfl
    · exact .inl rfl
    · exact .inr rfl
    · exact .inl rfl
  · rw [(List.mem_replicate.1 he).2]
    exact .inr rfl

/-- Polls and sleeps drive no line. -/
theorem drives_none_of_poll_or_sleep (l : Line) (e : Event) (h : e.isPoll = true ∨ e.isSleep = true) :
    e.drives l = none := by
  cases e <;> simp_all [Event.isPoll, Event.isSleep, Event.drives]

theorem seqThenWait_drives_rst (s : State) (q : CommandSeq) (t : Nat) :
    ∀ e ∈ s.seqThenWait q t, e.drives .rst = none := by
  intro e he
  rcases List.mem_append.1 he with h | h
  · exact seqEvents_drives_rst _ _ e h
  · exact drives_none_of_poll_or_sleep _ _ (waitEvents_poll_or_sleep _ _ e h)

/-- Frames and waits leave the reset line where it was. -/
theorem State.after_seqThenWait_rst (s : State) (q : CommandSeq) (t : Nat) : (s.after (s.seqThenWait q t)).rst = s.rst := by
  rw [State.after_rst, lastDrive_none_of _ _ (seqThenWait_drives_rst s q t)]
  rfl

/-! ### Closed forms -/

/-- RESETPULSE: the four events, then the four tracking fields (R103). -/
theorem State.resetPulse_eq (s : State) : s.resetPulse = (s.after (pulseEvents s.cfg)).clearTracking := by
  unfold State.resetPulse
  rw [State.emitAll_eq_after]
  simp [pulseEvents, Event.isPoll]

/-- PWRON from Off: the frames, the wait, then POWER (R113). -/
theorem State.powerOn_of_off (s : State) (h : s.cfg.Timed) (hp : s.power = .off) :
    s.powerOn = { s.after (s.seqThenWait (powerSeq s.cfg.ducPon) (s.cfg.tPon.get s.mode)) with power := .on } := by
  unfold State.powerOn
  simp only [hp]
  rw [State.playSeq_waitIdle_eq_after _ _ _ h]

theorem State.powerOn_of_on (s : State) (hp : s.power = .on) : s.powerOn = s := by
  unfold State.powerOn
  simp only [hp]

/-- PWROFF from On: the frames, the wait, then POWER and the latch (R114). -/
theorem State.powerOff_of_on (s : State) (h : s.cfg.Timed) (hp : s.power = .on) :
    s.powerOff =
      { s.after (s.seqThenWait (powerSeq s.cfg.ducPoff) (s.cfg.tPoff.get s.mode)) with power := .off, platch := false } := by
  unfold State.powerOff
  simp only [hp]
  rw [State.playSeq_waitIdle_eq_after _ _ _ h]

theorem State.powerOff_of_off (s : State) (hp : s.power = .off) : s.powerOff = { s with platch := false } := by
  unfold State.powerOff
  simp only [hp]

/-- SETRAMAREA is its five frames (R133). -/
theorem State.setRamArea_eq_after (s : State) (r : Window) :
    s.setRamArea r = s.after (seqEvents s.cfg (ramAreaSeq s.cfg s.orient r)) :=
  State.playSeq_eq_after _ _

/-- WRITEFRAME is the frames of its mode, in order (R144). -/
theorem State.writeFrame_eq_after (s : State) (buf : List Byte) (r : Window) :
    s.writeFrame buf r = s.after (seqEvents s.cfg (writeFrameSeq s.cfg s.mode s.orient buf r)) := by
  unfold State.writeFrame writeFrameSeq Window.byteCount Config.gran
  cases hm : s.mode <;> simp [State.send_eq_after, State.setRamArea_eq_after, seqEvents, ← State.after_append]

/-- ACTIVATE outside Fast mode is its frames and its wait (R145). -/
theorem State.activate_of_not_fast (s : State) (h : s.cfg.Timed) (hm : s.mode ≠ .fast) :
    s.activate =
      s.after (s.seqThenWait (activateSeq (s.cfg.ducDisplay.get s.mode)) (s.cfg.tDisplay.get s.mode)) := by
  simp only [State.activate, hm, if_false]
  exact State.playSeq_waitIdle_eq_after _ _ _ h

/-- ACTIVATE in Fast mode is its frames and its wait, then PWROFF (R145). -/
theorem State.activate_of_fast (s : State) (h : s.cfg.Timed) (hm : s.mode = .fast) :
    s.activate =
      (s.after (s.seqThenWait (activateSeq (s.cfg.ducDisplay.get s.mode)) (s.cfg.tDisplay.get s.mode))).powerOff := by
  simp only [State.activate, hm, if_true]
  rw [← hm, State.playSeq_waitIdle_eq_after _ _ _ h]

/-! ### Without an assumption on the configuration -/

/-- The events of a wait drive no line. -/
theorem drives_none_of_isWait (l : Line) (c : Cfg) (e : Event) (h : e.isWait c) : e.drives l = none :=
  drives_none_of_poll_or_sleep l e (h.imp And.left id)

/-- A CommandSequence and a wait: its frames, then wait events. -/
theorem State.playSeq_waitIdle_keeps (s : State) (q : CommandSeq) (t : Nat) :
    ∃ w, (s.playSeq q).waitIdle t = s.after (seqEvents s.cfg q ++ w) ∧ ∀ e ∈ w, e.isWait s.cfg := by
  obtain ⟨w, hw, hm⟩ := State.waitIdle_keeps (s.playSeq q) t
  rw [State.playSeq_eq_after] at hw hm
  exact ⟨w, by rw [State.playSeq_eq_after, hw, State.after_append], hm⟩

/-- PWRON: its frames if it was Off, then wait events; POWER ends On. -/
theorem State.powerOn_keeps (s : State) :
    ∃ w, s.powerOn =
        { s.after ((if s.power = .off then seqEvents s.cfg (powerSeq s.cfg.ducPon) else []) ++ w) with power := .on }
      ∧ ∀ e ∈ w, e.isWait s.cfg := by
  cases hp : s.power with
  | on =>
    refine ⟨[], ?_, by simp⟩
    rw [State.powerOn_of_on s hp]
    cases s
    simp_all
  | off =>
    obtain ⟨w, hw, hm⟩ := State.playSeq_waitIdle_keeps s (powerSeq s.cfg.ducPon) (s.cfg.tPon.get s.mode)
    refine ⟨w, ?_, hm⟩
    unfold State.powerOn
    simp only [hp, if_true]
    rw [hw]

/-- PWROFF: its frames if it was On, then wait events; POWER ends Off, the latch cleared. -/
theorem State.powerOff_keeps (s : State) :
    ∃ w, s.powerOff =
        { s.after ((if s.power = .on then seqEvents s.cfg (powerSeq s.cfg.ducPoff) else []) ++ w) with
          power := .off, platch := false }
      ∧ ∀ e ∈ w, e.isWait s.cfg := by
  cases hp : s.power with
  | off =>
    refine ⟨[], ?_, by simp⟩
    rw [State.powerOff_of_off s hp]
    cases s
    simp_all
  | on =>
    obtain ⟨w, hw, hm⟩ := State.playSeq_waitIdle_keeps s (powerSeq s.cfg.ducPoff) (s.cfg.tPoff.get s.mode)
    refine ⟨w, ?_, hm⟩
    unfold State.powerOff
    simp only [hp, if_true]
    rw [hw]

/-- RUNINIT: the pulse if needed, the mode's sequence, the power-on frames unless On already, then wait events; the fields as
R142 leaves them. -/
theorem State.runInit_keeps (s : State) :
    ∃ w, s.runInit =
        { s.after ((if s.needsPulse then pulseEvents s.cfg else []) ++ seqEvents s.cfg (s.cfg.initSeq.get s.mode)
            ++ (if s.needsPulse || s.power == .off then seqEvents s.cfg (powerSeq s.cfg.ducPon) else []) ++ w) with
          hib := false
          inited := true
          initMode := s.mode
          power := .on
          platch := if s.mode = .part then true else if s.needsPulse then false else s.platch }
      ∧ ∀ e ∈ w, e.isWait s.cfg := by
  unfold State.runInit
  by_cases hn : s.needsPulse = true
  · have e1 : s.pulseIfNeeded = (s.after (pulseEvents s.cfg)).clearTracking := by
      simp [State.pulseIfNeeded, hn, State.resetPulse_eq]
    have e2 : ((s.after (pulseEvents s.cfg)).clearTracking).cfg = s.cfg := rfl
    rw [e1, State.playSeq_eq_after, e2]
    obtain ⟨w, hw, hm⟩ := State.powerOn_keeps
      (((s.after (pulseEvents s.cfg)).clearTracking).after (seqEvents s.cfg (s.cfg.initSeq.get s.mode)))
    refine ⟨w, ?_, hm⟩
    rw [hw]
    simp only [hn, Bool.true_or, if_true, State.after_append]
    simp [State.clearTracking, State.markInitialized, State.after]
  · have hn' : s.needsPulse = false := by simpa using hn
    have hh : s.hib = false := by
      simp only [State.needsPulse, Bool.or_eq_false_iff] at hn'
      exact hn'.2
    have e1 : s.pulseIfNeeded = s := by simp [State.pulseIfNeeded, hn']
    rw [e1, State.playSeq_eq_after]
    obtain ⟨w, hw, hm⟩ := State.powerOn_keeps (s.after (seqEvents s.cfg (s.cfg.initSeq.get s.mode)))
    refine ⟨w, ?_, hm⟩
    rw [hw]
    simp only [hn', State.after_append]
    cases hp : s.power <;> simp [State.markInitialized, State.after, hh, hp]

/-- ENSUREINIT keeps the configuration, the bindings and what belongs to the host (R141). -/
theorem State.ensureInit_keeps (s : State) :
    s.ensureInit.cfg = s.cfg ∧ s.ensureInit.mode = s.mode ∧ s.ensureInit.orient = s.orient
      ∧ s.ensureInit.first = s.first ∧ s.ensureInit.pos = s.pos ∧ s.ensureInit.port = s.port := by
  unfold State.ensureInit
  split
  · simp
  · obtain ⟨w, hw, _⟩ := State.runInit_keeps s
    rw [hw]
    simp

/-- SETFRAME on an admitted rectangle: the frames of WRITEFRAME after ENSUREINIT (R163). -/
theorem State.setFrame_eq_after (s : State) (buf : List Byte) (x y w h : Int) :
    s.setFrame buf x y w h =
      s.ensureInit.after (seqEvents s.cfg (writeFrameSeq s.cfg s.mode s.orient buf (calcCoords x y w h))) := by
  obtain ⟨hc, hm, ho, _⟩ := State.ensureInit_keeps s
  unfold State.setFrame
  rw [State.writeFrame_eq_after, hc, hm, ho]

/-- ACTIVATE: its frames, wait events, in Fast mode the power-off frames if On and more wait events (R145). -/
theorem State.activate_keeps (s : State) :
    ∃ w1 w2, s.activate =
        { s.after (seqEvents s.cfg (activateSeq (s.cfg.ducDisplay.get s.mode)) ++ w1
            ++ (if s.mode = .fast ∧ s.power = .on then seqEvents s.cfg (powerSeq s.cfg.ducPoff) else []) ++ w2) with
          power := if s.mode = .fast then .off else s.power
          platch := if s.mode = .fast then false else s.platch }
      ∧ (∀ e ∈ w1, e.isWait s.cfg) ∧ ∀ e ∈ w2, e.isWait s.cfg := by
  unfold State.activate
  obtain ⟨w1, hw1, hm1⟩ :=
    State.playSeq_waitIdle_keeps s (activateSeq (s.cfg.ducDisplay.get s.mode)) (s.cfg.tDisplay.get s.mode)
  rw [hw1]
  by_cases hf : s.mode = .fast
  · obtain ⟨w2, hw2, hm2⟩ :=
      State.powerOff_keeps (s.after (seqEvents s.cfg (activateSeq (s.cfg.ducDisplay.get s.mode)) ++ w1))
    refine ⟨w1, w2, ?_, hm1, hm2⟩
    rw [if_pos hf, hw2]
    simp only [State.after_append, hf, State.after_power, State.after_cfg, if_true, true_and]
  · refine ⟨w1, [], ?_, hm1, by simp⟩
    simp only [hf, if_false, false_and, List.append_nil]
    rfl

/-- HIBERNATE: the power-off frames if On, wait events, the deep-sleep frame unless the reset line is held low (R116). -/
theorem State.hibernate_keeps (s : State) :
    ∃ w, s.hibernate =
        { s.after ((if s.power = .on then seqEvents s.cfg (powerSeq s.cfg.ducPoff) else []) ++ w
            ++ (if s.rst = .high then seqEvents s.cfg [(.deepSleepMode, some [s.cfg.deepSleepEnter])] else [])) with
          power := .off
          platch := false
          hib := true
          inited := false }
      ∧ ∀ e ∈ w, e.isWait s.cfg := by
  unfold State.hibernate
  obtain ⟨w, hw, hm⟩ := State.powerOff_keeps s
  refine ⟨w, ?_, hm⟩
  rw [hw]
  have hr : (s.after ((if s.power = .on then seqEvents s.cfg (powerSeq s.cfg.ducPoff) else []) ++ w)).rst = s.rst := by
    rw [State.after_rst, lastDrive_none_of]
    · rfl
    · intro e he
      rcases List.mem_append.1 he with h | h
      · split at h
        · exact seqEvents_drives_rst _ _ e h
        · cases h
      · exact drives_none_of_isWait _ _ _ (hm e h)
  rw [State.after_append _ _ (if s.rst = .high then _ else _)]
  have hc : (s.after ((if s.power = .on then seqEvents s.cfg (powerSeq s.cfg.ducPoff) else []) ++ w)).cfg = s.cfg := rfl
  generalize s.after ((if s.power = .on then seqEvents s.cfg (powerSeq s.cfg.ducPoff) else []) ++ w) = u at hr hc ⊢
  rw [← hr, ← hc]
  by_cases h : u.rst = .high <;> simp [h, State.send_eq_after, State.markHibernating, seqEvents, State.after]

end Sys2Proof.Machine
end

