-- ==== Sys2Proof/Laws/Exec.lean ====
section
/-!
SUPPORT. What an instruction and a step can do, said once. Whatever an instruction does, it emits frames, reset pulses and wait
events in some order, and apart from the eight fields of S that an operation sets itself the next state is the closed form of
those events.
-/

namespace Sys2Proof.Machine

open Sys2Proof

/-- A list of events made of whole command frames (R80), reset pulses (R103) and wait events (R111, R112). -/
inductive Emits (c : Cfg) : List Event → Prop
  | nil : Emits c []
  | frame (op : Byte) (p : Option (List Byte)) (es : List Event) :
      Emits c es → Emits c (frameEvents c.hasCs op p ++ es)
  | pulse (es : List Event) : Emits c es → Emits c (pulseEvents c ++ es)
  | wait (e : Event) (es : List Event) : e.isWait c → Emits c es → Emits c (e :: es)

theorem Emits.append {c : Cfg} {a b : List Event} (ha : Emits c a) (hb : Emits c b) : Emits c (a ++ b) := by
  induction ha with
  | nil => exact hb
  | frame op p es _ ih =>
    rw [List.append_assoc]
    exact .frame _ _ _ ih
  | pulse es _ ih =>
    rw [List.append_assoc]
    exact .pulse _ ih
  | wait e es h _ ih => exact .wait _ _ h ih

theorem Emits.one_frame (c : Cfg) (op : Byte) (p : Option (List Byte)) : Emits c (frameEvents c.hasCs op p) := by
  simpa using Emits.frame (c := c) op p [] .nil

theorem Emits.one_pulse (c : Cfg) : Emits c (pulseEvents c) := by
  simpa using Emits.pulse (c := c) [] .nil

theorem Emits.seq (c : Cfg) (q : CommandSeq) : Emits c (seqEvents c q) := by
  induction q with
  | nil => exact .nil
  | cons p q ih => exact .frame _ _ _ ih

theorem Emits.waits {c : Cfg} {w : List Event} (h : ∀ e ∈ w, e.isWait c) : Emits c w := by
  induction w with
  | nil => exact .nil
  | cons e w ih => exact .wait _ _ (h e (by simp)) (ih fun e' m => h e' (by simp [m]))

theorem Emits.ite {c : Cfg} {p : Prop} [Decidable p] {a b : List Event} (ha : Emits c a) (hb : Emits c b) :
    Emits c (if p then a else b) := by
  split <;> assumption

/-- Two states agree outside the eight fields of S that an operation sets itself. -/
structure AgreeOutside (u t : State) : Prop where
  dc : t.dc = u.dc
  cs : t.cs = u.cs
  rst : t.rst = u.rst
  trace : t.trace = u.trace
  pos : t.pos = u.pos
  cfg : t.cfg = u.cfg
  port : t.port = u.port
  busyIn : t.busyIn = u.busyIn
  polls : t.polls = u.polls

theorem AgreeOutside.refl (u : State) : AgreeOutside u u := by
  constructor <;> rfl

theorem AgreeOutside.after {u t : State} (h : AgreeOutside u t) (es : List Event) : AgreeOutside (u.after es) (t.after es) := by
  cases h
  constructor <;> simp_all

/-- The next state `t` is the closed form of events from `s`, apart from the fields of S that an operation sets itself. -/
def EmitsTo (s t : State) : Prop :=
  ∃ es, Emits s.cfg es ∧ AgreeOutside (s.after es) t

theorem EmitsTo.silent {s t : State} (h : AgreeOutside s t) : EmitsTo s t :=
  ⟨[], .nil, by rwa [State.after_nil]⟩

theorem EmitsTo.refl (s : State) : EmitsTo s s :=
  .silent (.refl s)

/-- One operation after another. -/
theorem EmitsTo.trans {s u t : State} (h : EmitsTo s u) (k : EmitsTo u t) : EmitsTo s t := by
  obtain ⟨a, ha, hu⟩ := h
  obtain ⟨b, hb, ht⟩ := k
  have hc : u.cfg = s.cfg := hu.cfg
  refine ⟨a ++ b, ha.append (hc ▸ hb), ?_⟩
  rw [State.after_append]
  cases hu.after b
  cases ht
  constructor <;> simp_all

theorem execCommand_emits {rev : Revision} {n : Command} {p : Option (List Byte)} {s t : State}
    (h : execCommand rev n p s = .next t) : EmitsTo s t := by
  unfold execCommand at h
  split at h
  · cases h
  split at h
  · cases h
    rw [State.send_eq_after]
    exact ⟨_, .one_frame _ _ _, by constructor <;> rfl⟩
  · cases h

theorem runInit_emits (s : State) : EmitsTo s s.runInit := by
  obtain ⟨w, hw, hm⟩ := State.runInit_keeps s
  rw [hw]
  exact ⟨_, (((Emits.ite (.one_pulse _) .nil).append (.seq _ _)).append (.ite (.seq _ _) .nil)).append (.waits hm), by constructor <;> rfl⟩

theorem powerOff_emits (s : State) : EmitsTo s s.powerOff := by
  obtain ⟨w, hw, hm⟩ := State.powerOff_keeps s
  rw [hw]
  exact ⟨_, (Emits.ite (.seq _ _) .nil).append (.waits hm), by constructor <;> rfl⟩

theorem hibernate_emits (s : State) : EmitsTo s s.hibernate := by
  obtain ⟨w, hw, hm⟩ := State.hibernate_keeps s
  rw [hw]
  exact ⟨_, ((Emits.ite (.seq _ _) .nil).append (.waits hm)).append (.ite (.seq _ _) .nil), by constructor <;> rfl⟩

theorem activate_emits (s : State) : EmitsTo s s.activate := by
  obtain ⟨w1, w2, hw, hm1, hm2⟩ := State.activate_keeps s
  rw [hw]
  exact ⟨_, (((Emits.seq _ _).append (.waits hm1)).append (.ite (.seq _ _) .nil)).append (.waits hm2), by constructor <;> rfl⟩

theorem setFrame_emits (s : State) (buf : List Byte) (x y w h : Int) : EmitsTo s (s.setFrame buf x y w h) := by
  have h : EmitsTo s s.ensureInit := by
    unfold State.ensureInit
    split
    · exact .refl s
    · exact runInit_emits s
  rw [State.setFrame_eq_after]
  refine h.trans ⟨_, ?_, .refl _⟩
  rw [(State.ensureInit_keeps s).1]
  exact .seq _ _

theorem waitIdle_emits (s : State) (t : Nat) : EmitsTo s (s.waitIdle t) := by
  obtain ⟨w, hw, hm⟩ := State.waitIdle_keeps s t
  rw [hw]
  exact ⟨w, .waits hm, by constructor <;> rfl⟩

/-- Whatever instruction runs, its next state is the closed form of frames, pulses and wait events but for the fields it sets. -/
theorem exec_emits (i : Instr) (s t : State) (h : exec i s = .next t) : EmitsTo s t := by
  have area : ∀ r : Window, EmitsTo s (s.setRamArea r) := fun r => by
    rw [State.setRamArea_eq_after]
    exact ⟨_, .seq _ _, by constructor <;> rfl⟩
  cases i
  case init =>
    cases h
    exact runInit_emits s
  case setmode m =>
    simp only [exec, execSetmode] at h
    split at h
    · cases h
      exact .refl s
    · cases h
      have h1 : EmitsTo s { s with mode := m } := .silent (by constructor <;> rfl)
      have h2 := h1.trans (powerOff_emits _)
      exact h2.trans (.silent (by constructor <;> rfl))
  case setorient o =>
    cases h
    exact .silent (by constructor <;> rfl)
  case setframe buf x y w h' =>
    simp only [exec, execSetframe] at h
    split at h
    · cases h
    split at h
    · cases h
      exact setFrame_emits _ _ _ _ _ _
    · cases h
  case display =>
    cases h
    exact activate_emits s
  case refresh x y w h' =>
    simp only [exec, execRefresh] at h
    split at h
    · cases h
      have h1 : EmitsTo s { s with first := false } := .silent (by constructor <;> rfl)
      exact h1.trans (activate_emits _)
    · split at h
      · cases h
        exact .refl s
      · cases h
        exact (area _).trans (activate_emits _)
  case clear fill =>
    cases h
    exact setFrame_emits _ _ _ _ _ _
  case hibernate =>
    cases h
    exact hibernate_emits s
  case sleep =>
    cases h
    exact (hibernate_emits s).trans (waitIdle_emits _ _)
  case waitidle T =>
    simp only [exec, execWaitidle] at h
    split at h
    · cases h
      exact waitIdle_emits _ _
    · cases h
  case reset =>
    cases h
    rw [State.resetPulse_eq]
    exact ⟨_, .one_pulse _, by constructor <;> rfl⟩
  case pwron =>
    simp only [exec, execPwron] at h
    split at h
    · cases h
    · cases h
      obtain ⟨w, hw, hm⟩ := State.powerOn_keeps s
      rw [hw]
      exact ⟨_, (Emits.ite (.seq _ _) .nil).append (.waits hm), by constructor <;> rfl⟩
  case pwroff =>
    cases h
    exact powerOff_emits s
  case sendcmd op p =>
    simp only [exec, execSendcmd] at h
    split at h
    · cases h
      rw [State.sendCmd_eq_after]
      exact ⟨_, .one_frame _ _ _, by constructor <;> rfl⟩
    · cases h
  all_goals exact execCommand_emits h

/-- A step that answers a next state is idle, or runs one instruction on the state with a call taken. -/
theorem step_cases {s t : State} (h : step s = .next t) :
    (s.port = [] ∧ t = s)
      ∨ ∃ r rest i u, s.port = r :: rest ∧ decode s.cfg r = .ok i ∧ exec i { s with port := rest } = .next u ∧ t = u.retire := by
  unfold step State.fetch at h
  cases hp : s.port with
  | nil =>
    simp only [hp] at h
    cases h
    exact .inl ⟨rfl, rfl⟩
  | cons r rest =>
    simp only [hp] at h
    cases hd : decode s.cfg r with
    | error e =>
      simp only [hd] at h
      cases h
    | ok i =>
      simp only [hd] at h
      split at h
      · cases h
        exact .inr ⟨r, rest, i, _, rfl, hd, by assumption, rfl⟩
      · cases h
      · cases h

end Sys2Proof.Machine
end

