-- ==== Sys2Proof/Laws/PerInstr.lean ====
section
/-!
SUPPORT. A law of every instruction as syntax, said per constructor: the first byte an instruction is encoded with is its row's
byte, the opcode of the configuration's map for a command row (R82) and the selector for a host operation (R90).
-/

namespace Sys2Proof

/-- The bytes of a call. -/
def Request.bytes : Request → List Byte
  | .host bytes => bytes
  | .frame bytes => bytes

namespace Laws.FirstByte

/-- The encoding of the instruction begins with its row's byte. -/
def Statement (i : Instr) : Prop :=
  ∀ c : Cfg, (encode c i).bytes.head? = some (match i.command with
    | some (n, _) => c.opcode n
    | none => i.selector)

theorem driverOutputControl (gates : Word16) (scan : Byte) : Statement (.driverOutputControl gates scan) := fun _ => rfl
theorem deepSleepMode (p0 : Byte) : Statement (.deepSleepMode p0) := fun _ => rfl
theorem dataEntryMode (dem : Byte) : Statement (.dataEntryMode dem) := fun _ => rfl
theorem tempSensorControl (p0 : Byte) : Statement (.tempSensorControl p0) := fun _ => rfl
theorem masterActivation : Statement (.masterActivation) := fun _ => rfl
theorem displayUpdateControl2 (duc : Byte) : Statement (.displayUpdateControl2 duc) := fun _ => rfl
theorem writeRam (buf : List Byte) : Statement (.writeRam buf) := fun _ => rfl
theorem writeRamRed (n : Nat) : Statement (.writeRamRed n) := fun _ => rfl
theorem borderWaveform (p0 : Byte) : Statement (.borderWaveform p0) := fun _ => rfl
theorem setRamXWindow (cs ce : Byte) : Statement (.setRamXWindow cs ce) := fun _ => rfl
theorem setRamYWindow (rs re : Word16) : Statement (.setRamYWindow rs re) := fun _ => rfl
theorem setRamXCounter (cs : Byte) : Statement (.setRamXCounter cs) := fun _ => rfl
theorem setRamYCounter (rs : Word16) : Statement (.setRamYCounter rs) := fun _ => rfl
theorem terminate : Statement (.terminate) := fun _ => rfl
theorem driverOutputControlB (gates : Word16) (scan : Byte) : Statement (.driverOutputControlB gates scan) := fun _ => rfl
theorem deepSleepModeB (p0 : Byte) : Statement (.deepSleepModeB p0) := fun _ => rfl
theorem dataEntryModeB (dem : Byte) : Statement (.dataEntryModeB dem) := fun _ => rfl
theorem tempSensorControlB (p0 : Byte) : Statement (.tempSensorControlB p0) := fun _ => rfl
theorem masterActivationB : Statement (.masterActivationB) := fun _ => rfl
theorem displayUpdateControl2B (duc : Byte) : Statement (.displayUpdateControl2B duc) := fun _ => rfl
theorem writeRamB (buf : List Byte) : Statement (.writeRamB buf) := fun _ => rfl
theorem writeRamRedB (n : Nat) : Statement (.writeRamRedB n) := fun _ => rfl
theorem borderWaveformB (p0 : Byte) : Statement (.borderWaveformB p0) := fun _ => rfl
theorem setRamXWindowB (cs ce : Byte) : Statement (.setRamXWindowB cs ce) := fun _ => rfl
theorem setRamYWindowB (rs re : Word16) : Statement (.setRamYWindowB rs re) := fun _ => rfl
theorem setRamXCounterB (cs : Byte) : Statement (.setRamXCounterB cs) := fun _ => rfl
theorem setRamYCounterB (rs : Word16) : Statement (.setRamYCounterB rs) := fun _ => rfl
theorem terminateB : Statement (.terminateB) := fun _ => rfl
theorem lut0 (table : List Byte) : Statement (.lut0 table) := fun _ => rfl
theorem lut1 (table : List Byte) : Statement (.lut1 table) := fun _ => rfl
theorem lut2 (table : List Byte) : Statement (.lut2 table) := fun _ => rfl
theorem lut3 (table : List Byte) : Statement (.lut3 table) := fun _ => rfl
theorem lut4 (table : List Byte) : Statement (.lut4 table) := fun _ => rfl
theorem init : Statement (.init) := fun _ => rfl
theorem setmode (m : RefreshMode) : Statement (.setmode m) := fun _ => rfl
theorem setorient (o : Orientation) : Statement (.setorient o) := fun _ => rfl
theorem setframe (buf : List Byte) (x y w h : Int) : Statement (.setframe buf x y w h) := fun _ => rfl
theorem display : Statement (.display) := fun _ => rfl
theorem refresh (x y w h : Int) : Statement (.refresh x y w h) := fun _ => rfl
theorem clear (fill : Byte) : Statement (.clear fill) := fun _ => rfl
theorem hibernate : Statement (.hibernate) := fun _ => rfl
theorem sleep : Statement (.sleep) := fun _ => rfl
theorem waitidle (t : Int) : Statement (.waitidle t) := fun _ => rfl
theorem reset : Statement (.reset) := fun _ => rfl
theorem pwron : Statement (.pwron) := fun _ => rfl
theorem pwroff : Statement (.pwroff) := fun _ => rfl
theorem sendcmd (op : Byte) (payload : Option (List Byte)) : Statement (.sendcmd op payload) := fun _ => rfl

end Laws.FirstByte

end Sys2Proof
end

