-- ==== Sys2Proof/Tests/Slice0.lean ====
section
/-!
SUPPORT. Tests on small states. Expected values are the vectors of 95_test_vectors.md (V-…) and words written out from the
encodings of 30_encoding.md; where neither gives a value the comment says whose it is. After them, for every statement with
hypotheses, a state and operands that meet all of them together.
-/

namespace Sys2Proof.Tests

open Sys2Proof Sys2Proof.Machine

/-! ## Small states -/

/-- A fresh block (R44) of configuration `c` whose BUSY line answers `busy`, one level a poll. -/
def freshOf (c : Cfg) (busy : List Level) : State :=
  { State.construct c with busyIn := busy }

/-- A fresh REV A block whose controller is idle at the first eight polls. -/
def fresh : State :=
  freshOf Cfg.default (List.replicate 8 .low)

/-- Not hibernating and Off: a fresh block after RESET, its trace dropped. -/
def awake : State :=
  { fresh with hib := false }

/-- Initialized under mode `m` and On. -/
def live (m : RefreshMode) : State :=
  { awake with mode := m, power := .on, inited := true, initMode := m, platch := m == .part }

/-- An opcode map for REV B, made up: the spec gives none. -/
def opcB : OpcMap where
  driverOutputControl := 0xA0
  deepSleepMode := 0xA1
  dataEntryMode := 0xA2
  tempSensorControl := 0xA3
  masterActivation := 0xA4
  displayUpdateControl2 := 0xA5
  writeRam := 0xA6
  writeRamRed := 0xA7
  borderWaveform := 0xA8
  setRamXWindow := 0xA9
  setRamYWindow := 0xAA
  setRamXCounter := 0xAB
  setRamYCounter := 0xAC
  terminate := 0xAD

/-- A REV B configuration with made-up waveform tables of one byte. -/
def cfgB : Cfg :=
  Cfg.revB opcB [[1], [2], [3], [4], [5]] [[6], [7], [8], [9], [10]]

/-- A fresh REV B block whose controller is idle at the first poll. -/
def freshB : State :=
  freshOf cfgB [.high]

/-- A frame with a payload, without chip-select (95_test_vectors.md, conventions). -/
def fr (op : Byte) (p : List Byte) : List Event :=
  [.line .dc .low, .bus [op], .line .dc .high, .bus p]

/-- A frame without a payload, without chip-select. -/
def fr0 (op : Byte) : List Event :=
  [.line .dc .low, .bus [op]]

/-- The reset pulse with the default times (V-C8). -/
def pulse : List Event :=
  [.line .rst .low, .sleep 100, .line .rst .high, .sleep 100]

/-- The initialization frames of REV A (V-I1). -/
def initA : List Event :=
  fr 0x01 [0xC7, 0x00, 0x00] ++ fr 0x3C [0x05] ++ fr 0x18 [0x80]

/-- The trace of a next state, none where the operation stops. -/
def traceOf : Result → Option (List Event)
  | .next t => some t.trace
  | _ => none

/-- The tracking fields (POWER, HIB, INITED, PLATCH) of a next state. -/
def flagsOf : Result → Option (Power × Bool × Bool × Bool)
  | .next t => some (t.power, t.hib, t.inited, t.platch)
  | _ => none

/-- The operation in the state the first one leaves, its trace dropped. -/
def andThen (r : Result) (i : Instr) : Result :=
  match r with
  | .next t => exec i { t with trace := [] }
  | r => r

/-! ## Well-formedness: an ill-formed term for each check -/

theorem test_wf_write_ram : (Instr.writeRam []).wellFormed = false ∧ (Instr.writeRam [0]).wellFormed = true := by decide
theorem test_wf_write_ram_red : (Instr.writeRamRedB 0).wellFormed = false ∧ (Instr.writeRamRed 1).wellFormed = true := by decide
theorem test_wf_lut : (Instr.lut0 []).wellFormed = false ∧ (Instr.lut4 (List.replicate 57 0)).wellFormed = false
    ∧ (Instr.lut4 (List.replicate 56 0)).wellFormed = true := by decide
/-- V-M11 and R21: SETFRAME's domain. -/
theorem test_wf_setframe :
    (Instr.setframe [] 0 0 8 1).wellFormed = false ∧ (Instr.setframe [0] 0 0 7 1).wellFormed = false
      ∧ (Instr.setframe [0] (-8) 0 8 1).wellFormed = false ∧ (Instr.setframe [0] 200 0 8 1).wellFormed = false
      ∧ (Instr.setframe [0] 0 (-1) 8 1).wellFormed = false ∧ (Instr.setframe [0] 0 200 8 1).wellFormed = false
      ∧ (Instr.setframe [0] 0 0 8 0).wellFormed = false ∧ (Instr.setframe [0] 199 199 8 1).wellFormed = true := by decide
theorem test_wf_waitidle : (Instr.waitidle (-1)).wellFormed = false ∧ (Instr.waitidle 0).wellFormed = true := by decide
theorem test_wf_sendcmd : (Instr.sendcmd 0x24 (some [])).wellFormed = false ∧ (Instr.sendcmd 0x24 none).wellFormed = true := by
  decide
theorem test_wf_revision :
    Instr.terminateB.inRevision Cfg.default = false ∧ (Instr.lut0 [1]).inRevision Cfg.default = false
      ∧ Instr.terminate.inRevision cfgB = false ∧ (Instr.lut0 [1]).inRevision cfgB = true := by decide
/-- R41: two commands with one opcode, and a REV B command on a waveform register. -/
theorem test_wf_cfg_opcodes :
    { Cfg.default with opc := { OpcMap.defaultA with terminate := 0x24 } }.wellFormed = false
      ∧ { cfgB with opc := { opcB with terminate := 0x24 } }.wellFormed = false := by decide
/-- R40: equal polarities, and each interval out of range. -/
theorem test_wf_cfg_times :
    { Cfg.default with busyActiveB := .high }.wellFormed = false ∧ { Cfg.default with pollMs := 0 }.wellFormed = false
      ∧ { Cfg.default with noBusyStepMs := 0 }.wellFormed = false ∧ { Cfg.default with resetLowMs := 99 }.wellFormed = false := by
  decide
/-- R42, R43, R81: a pair outside its format, a register REV A lacks, four tables, an initialization without its tables. -/
theorem test_wf_cfg_sequences :
    { Cfg.default with initSeq := ⟨[(.terminate, some [0])], [], []⟩ }.wellFormed = false
      ∧ { Cfg.default with initSeq := ⟨[], [(.lut 0, some [0])], []⟩ }.wellFormed = false
      ∧ { Cfg.default with initSeq := ⟨[], [], [(.borderWaveform, none)]⟩ }.wellFormed = false
      ∧ (Cfg.revB opcB [[1], [2], [3], [4]] [[6], [7], [8], [9], [10]]).wellFormed = false
      ∧ (Cfg.revB opcB [[1], [2], [3], [4], [5]] [[6], [7], [8], [9], []]).wellFormed = false
      ∧ { cfgB with initSeq := ⟨[], lutPairs cfgB.lutPart, []⟩ }.wellFormed = false
      ∧ { cfgB with initSeq := ⟨lutPairs cfgB.lutFull, [], []⟩ }.wellFormed = false := by decide
/-- R143, D33: the five tables in another order, and one table loaded twice; a further frame between them is admitted (R42). -/
theorem test_wf_cfg_lut_order :
    { cfgB with initSeq := ⟨(lutPairs cfgB.lutFull).reverse, lutPairs cfgB.lutPart, []⟩ }.wellFormed = false
      ∧ { cfgB with initSeq := ⟨lutPairs cfgB.lutFull, (lutPairs cfgB.lutPart).reverse, []⟩ }.wellFormed = false
      ∧ { cfgB with initSeq := ⟨lutPairs cfgB.lutFull ++ [(Command.lut 4, some [5])], lutPairs cfgB.lutPart, []⟩ }.wellFormed = false
      ∧ { cfgB with initSeq := ⟨(Command.terminate, none) :: lutPairs cfgB.lutFull, lutPairs cfgB.lutPart, []⟩ }.wellFormed = true := by
  decide
theorem test_wf_cfg_good : Cfg.default.wellFormed = true ∧ cfgB.wellFormed = true := by decide

/-! ## Decoding: words from the spec's encodings -/

/-- R83, R85 and V-K1 to V-K6, V-K9: the one-byte and register commands. -/
theorem test_decode_register_commands :
    (decode Cfg.default (.frame [0x01, 0xC7, 0x00, 0x00])).toOption = some (.driverOutputControl 199 0)
      ∧ (decode Cfg.default (.frame [0x10, 0x01])).toOption = some (.deepSleepMode 0x01)
      ∧ (decode Cfg.default (.frame [0x11, 0x03])).toOption = some (.dataEntryMode 0x03)
      ∧ (decode Cfg.default (.frame [0x18, 0x80])).toOption = some (.tempSensorControl 0x80)
      ∧ (decode Cfg.default (.frame [0x20])).toOption = some .masterActivation
      ∧ (decode Cfg.default (.frame [0x22, 0xF7])).toOption = some (.displayUpdateControl2 0xF7)
      ∧ (decode Cfg.default (.frame [0x3C, 0x80])).toOption = some (.borderWaveform 0x80)
      ∧ (decode Cfg.default (.frame [0xFF])).toOption = some .terminate := by decide
/-- R84, V-A2, V-K7, V-K8: RAM writes and the address commands, rows low byte first. -/
theorem test_decode_ram_commands :
    (decode Cfg.default (.frame [0x24, 0xAA, 0xBB])).toOption = some (.writeRam [0xAA, 0xBB])
      ∧ (decode Cfg.default (.frame [0x26, 0x00, 0x00])).toOption = some (.writeRamRed 2)
      ∧ (decode Cfg.default (.frame [0x44, 0x00, 0x18])).toOption = some (.setRamXWindow 0 24)
      ∧ (decode Cfg.default (.frame [0x45, 0xC4, 0x00, 0xC7, 0x01])).toOption = some (.setRamYWindow 196 455)
      ∧ (decode Cfg.default (.frame [0x4E, 0x18])).toOption = some (.setRamXCounter 24)
      ∧ (decode Cfg.default (.frame [0x4F, 0x02, 0x01])).toOption = some (.setRamYCounter 258) := by decide
/-- R41, R81: the same commands on REV B, by a map of its own. -/
theorem test_decode_register_commands_b :
    (decode cfgB (.frame [0xA0, 0xC7, 0x00, 0x00])).toOption = some (.driverOutputControlB 199 0)
      ∧ (decode cfgB (.frame [0xA1, 0x01])).toOption = some (.deepSleepModeB 0x01)
      ∧ (decode cfgB (.frame [0xA2, 0x03])).toOption = some (.dataEntryModeB 0x03)
      ∧ (decode cfgB (.frame [0xA3, 0x80])).toOption = some (.tempSensorControlB 0x80)
      ∧ (decode cfgB (.frame [0xA4])).toOption = some .masterActivationB
      ∧ (decode cfgB (.frame [0xA5, 0xF7])).toOption = some (.displayUpdateControl2B 0xF7)
      ∧ (decode cfgB (.frame [0xA8, 0x80])).toOption = some (.borderWaveformB 0x80)
      ∧ (decode cfgB (.frame [0xAD])).toOption = some .terminateB := by decide
theorem test_decode_ram_commands_b :
    (decode cfgB (.frame [0xA6, 0xAA, 0xBB])).toOption = some (.writeRamB [0xAA, 0xBB])
      ∧ (decode cfgB (.frame [0xA7, 0x00, 0x00])).toOption = some (.writeRamRedB 2)
      ∧ (decode cfgB (.frame [0xA9, 0x00, 0x18])).toOption = some (.setRamXWindowB 0 24)
      ∧ (decode cfgB (.frame [0xAA, 0xC4, 0x00, 0xC7, 0x00])).toOption = some (.setRamYWindowB 196 199)
      ∧ (decode cfgB (.frame [0xAB, 0x18])).toOption = some (.setRamXCounterB 24)
      ∧ (decode cfgB (.frame [0xAC, 0xC4, 0x00])).toOption = some (.setRamYCounterB 196) := by decide
/-- R143, V-K15: the waveform registers 0x20 to 0x24 of REV B. -/
theorem test_decode_luts :
    (decode cfgB (.frame [0x20, 1, 2])).toOption = some (.lut0 [1, 2])
      ∧ (decode cfgB (.frame [0x21, 1, 2])).toOption = some (.lut1 [1, 2])
      ∧ (decode cfgB (.frame [0x22, 1, 2])).toOption = some (.lut2 [1, 2])
      ∧ (decode cfgB (.frame [0x23, 1, 2])).toOption = some (.lut3 [1, 2])
      ∧ (decode cfgB (.frame [0x24, 1, 2])).toOption = some (.lut4 [1, 2]) := by decide
/-- R90: the selectors. -/
theorem test_decode_selectors :
    (decode Cfg.default (.host [0x00])).toOption = some .init
      ∧ (decode Cfg.default (.host [0x01, 0x02])).toOption = some (.setmode .fast)
      ∧ (decode Cfg.default (.host [0x02, 0x01])).toOption = some (.setorient .inverted)
      ∧ (decode Cfg.default (.host [0x04])).toOption = some .display
      ∧ (decode Cfg.default (.host [0x06, 0xFF])).toOption = some (.clear 0xFF)
      ∧ (decode Cfg.default (.host [0x07])).toOption = some .hibernate
      ∧ (decode Cfg.default (.host [0x08])).toOption = some .sleep
      ∧ (decode Cfg.default (.host [0x10])).toOption = some .reset
      ∧ (decode Cfg.default (.host [0x11])).toOption = some .pwron
      ∧ (decode Cfg.default (.host [0x12])).toOption = some .pwroff
      ∧ (decode Cfg.default (.host [0x13, 0x44, 0x01, 0x00, 0x18])).toOption = some (.sendcmd 0x44 (some [0x00, 0x18])) := by
  decide
/-- R90 for the selector; the operand bytes by the layout of log entry 9, worked out by hand: −4 is 7, 10 is 20, 196 is 392,
two bytes 0x88, 0x03. -/
theorem test_decode_integer_operands :
    (decode Cfg.default (.host [0x05, 7, 7, 20, 20])).toOption = some (.refresh (-4) (-4) 10 10)
      ∧ (decode Cfg.default (.host [0x03, 0x88, 0x03, 2, 24, 38, 0xAA])).toOption = some (.setframe [0xAA] 196 1 20 20)
      ∧ (decode Cfg.default (.host [0x09, 1])).toOption = some (.waitidle (-1)) := by decide
/-- R92: what the port does not inspect is a plain SENDCMD: an opcode outside the map (V-C5), a payload outside its format. -/
theorem test_decode_uninspected_frames :
    (decode Cfg.default (.frame [0x77, 0x00])).toOption = some (.sendcmd 0x77 (some [0x00]))
      ∧ (decode Cfg.default (.frame [0x20, 0x00])).toOption = some (.sendcmd 0x20 (some [0x00]))
      ∧ (decode Cfg.default (.frame [0x26, 0x01])).toOption = some (.sendcmd 0x26 (some [0x01]))
      ∧ (decode Cfg.default (.frame [0x24])).toOption = some (.sendcmd 0x24 none) := by decide
/-- R92: calls the port refuses, and calls outside the operand layout. -/
theorem test_decode_refusals :
    decode Cfg.default (.host []) = .error .emptyRequest ∧ decode Cfg.default (.frame []) = .error .emptyRequest
      ∧ decode Cfg.default (.host [0x0A]) = .error (.unassignedSelector 0x0A)
      ∧ decode Cfg.default (.host [0x01, 0x03]) = .error (.modeOutsideEnum 0x03)
      ∧ decode Cfg.default (.host [0x02, 0x02]) = .error (.orientOutsideEnum 0x02)
      ∧ decode Cfg.default (.host [0x03, 0]) = .error .missingOperand
      ∧ decode Cfg.default (.host [0x00, 0]) = .error .trailingBytes
      ∧ decode Cfg.default (.host [0x13, 0x24, 0x02]) = .error (.badPresence 0x02) :=
  ⟨rfl, rfl, rfl, rfl, rfl, rfl, rfl, rfl⟩
/-- The opcode table's rows 0x00 (INIT), 0x45 (SET_RAM_Y_WINDOW), 0x23 (LUT3), with zero operand bits. -/
theorem test_table_words :
    decodeTableWord 8 0x00 = some .init ∧ decodeTableWord 8 0x45 = some (.setRamYWindow 0 0)
      ∧ decodeTableWord 8 0x03 = some (.setframe [0] 0 0 8 1) ∧ decodeTableWord 8 0x23 = some (.lut3 [0])
      ∧ decodeTableWord 8 0x0A = none := by decide
theorem test_table_word_runs : traceOf (step (State.reset.withFetchWord 8 0x4E)) = some (fr 0x4E [0x00]) := by decide

/-! ## CommandChannel -/

/-- V-C1. -/
theorem test_sendcmd_with_chip_select :
    traceOf (exec (.sendcmd 0x44 (some [0x00, 0x18])) (freshOf { Cfg.default with hasCs := true } [])) =
      some [.line .dc .low, .line .cs .low, .bus [0x44], .line .cs .high, .line .dc .high, .line .cs .low, .bus [0x00, 0x18],
        .line .cs .high] := by decide
/-- V-C3, V-C6. -/
theorem test_sendcmd_without_payload :
    traceOf (exec (.sendcmd 0x20 none) fresh) = some [.line .dc .low, .bus [0x20]]
      ∧ exec (.sendcmd 0x24 (some [])) fresh = .refused .emptyPayload := ⟨by decide, rfl⟩
/-- V-C8, V-C9. -/
theorem test_reset :
    traceOf (exec .reset fresh) = some pulse ∧ flagsOf (exec .reset fresh) = some (.off, false, false, false)
      ∧ traceOf (exec .reset (live .part)) = some pulse
      ∧ flagsOf (exec .reset (live .part)) = some (.off, false, false, false) := by decide

/-! ## PowerController -/

/-- V-W1 to V-W6. -/
theorem test_waitidle_polls :
    traceOf (exec (.waitidle 100) (freshOf Cfg.default [.high, .high, .low])) =
        some [.poll .high, .sleep 10, .poll .high, .sleep 10, .poll .low]
      ∧ traceOf (exec (.waitidle 100) fresh) = some [.poll .low]
      ∧ traceOf (exec (.waitidle 0) (freshOf Cfg.default [.high])) = some [.poll .high]
      ∧ traceOf (exec (.waitidle 30) (freshOf Cfg.default [.high, .high, .high, .high])) =
          some [.poll .high, .sleep 10, .poll .high, .sleep 10, .poll .high, .sleep 10, .poll .high]
      ∧ traceOf (exec (.waitidle 25) (freshOf Cfg.default [.high, .high, .high, .high])) =
          some [.poll .high, .sleep 10, .poll .high, .sleep 10, .poll .high, .sleep 10, .poll .high]
      ∧ traceOf (exec (.waitidle (-1)) fresh) = none := by decide
/-- V-W7 to V-W11. -/
theorem test_waitidle_rev_b_and_no_busy_line :
    traceOf (exec (.waitidle 100) (freshOf cfgB [.low, .low, .high])) =
        some [.poll .low, .sleep 10, .poll .low, .sleep 10, .poll .high]
      ∧ traceOf (exec (.waitidle 300) (freshOf { Cfg.default with hasBusy := false } [])) =
          some [.sleep 100, .sleep 100, .sleep 100]
      ∧ traceOf (exec (.waitidle 150) (freshOf { Cfg.default with hasBusy := false } [])) = some [.sleep 100, .sleep 100]
      ∧ traceOf (exec (.waitidle 0) (freshOf { Cfg.default with hasBusy := false } [])) = some []
      ∧ traceOf (exec (.waitidle 100) (freshOf { Cfg.default with hasBusy := false } [])) = some [.sleep 100] := by decide
/-- V-P1, V-P3, and V-S5's second call. -/
theorem test_pwron :
    traceOf (exec .pwron { awake with busyIn := [.high, .low] }) =
        some (fr 0x22 [0xE0] ++ fr0 0x20 ++ [.poll .high, .sleep 10, .poll .low])
      ∧ flagsOf (exec .pwron awake) = some (.on, false, false, false)
      ∧ traceOf (exec .pwron (live .full)) = some [] ∧ traceOf (exec .pwron fresh) = none := by decide
/-- V-P2: the wait times out, POWER is On all the same. -/
theorem test_pwron_timeout :
    flagsOf (exec .pwron { awake with busyIn := List.replicate 11 .high }) = some (.on, false, false, false) := by decide
/-- V-P4, V-P5. -/
theorem test_pwroff :
    traceOf (exec .pwroff (live .part)) = some (fr 0x22 [0x83] ++ fr0 0x20 ++ [.poll .low])
      ∧ flagsOf (exec .pwroff (live .part)) = some (.off, false, true, false)
      ∧ traceOf (exec .pwroff awake) = some [] := by decide
/-- V-P7. -/
theorem test_pwroff_no_busy_line :
    traceOf (exec .pwroff { live .full with cfg := { Cfg.default with hasBusy := false } }) =
      some (fr 0x22 [0x83] ++ fr0 0x20 ++ [.sleep 100, .sleep 100]) := by decide
/-- V-H1, V-H2. -/
theorem test_hibernate_fresh :
    traceOf (exec .hibernate fresh) = some (fr 0x10 [0x01])
      ∧ traceOf (andThen (exec .hibernate fresh) .hibernate) = some (fr 0x10 [0x01]) := by decide
/-- V-H3. -/
theorem test_hibernate_live :
    traceOf (exec .hibernate (live .full)) = some (fr 0x22 [0x83] ++ fr0 0x20 ++ [.poll .low] ++ fr 0x10 [0x01])
      ∧ flagsOf (exec .hibernate (live .full)) = some (.off, true, false, false) := by decide
/-- V-H4, V-H5. -/
theorem test_sleep :
    traceOf (exec .sleep fresh) = some (fr 0x10 [0x01] ++ [.poll .low])
      ∧ traceOf (exec .sleep (freshOf { Cfg.default with hasBusy := false } [])) = some (fr 0x10 [0x01] ++ [.sleep 100]) := by
  decide

/-! ## RamAddressMapper -/

/-- V-M1 to V-M3, V-M5, V-M7, V-M10. -/
theorem test_calc_coords :
    calcCoords 0 0 200 200 = ⟨0, 0, 199, 199⟩ ∧ calcCoords 196 196 20 20 = ⟨192, 196, 199, 199⟩
      ∧ calcCoords 4 0 20 1 = ⟨0, 0, 15, 0⟩ ∧ calcCoords 199 199 8 1 = ⟨192, 199, 199, 199⟩
      ∧ calcCoords 0 0 1000 1000 = ⟨0, 0, 199, 199⟩ ∧ calcCoords 7 0 15 1 = ⟨0, 0, 7, 0⟩
      ∧ (calcCoords 0 0 200 200).byteCount = 5000 ∧ (calcCoords 196 196 20 20).byteCount = 4 := by decide
/-- V-A2, V-A3. -/
theorem test_ram_area :
    seqEvents Cfg.default (ramAreaSeq Cfg.default .normal ⟨192, 196, 199, 199⟩) =
        fr 0x11 [0x03] ++ fr 0x44 [0x18, 0x18] ++ fr 0x45 [0xC4, 0x00, 0xC7, 0x00] ++ fr 0x4E [0x18] ++ fr 0x4F [0xC4, 0x00]
      ∧ seqEvents Cfg.default (ramAreaSeq Cfg.default .inverted ⟨8, 10, 23, 10⟩) =
        fr 0x11 [0x00] ++ fr 0x44 [0x17, 0x16] ++ fr 0x45 [0xBD, 0x00, 0xBD, 0x00] ++ fr 0x4E [0x17]
          ++ fr 0x4F [0xBD, 0x00] := by decide
/-- V-Q1 to V-Q5, V-Q9, V-Q10, V-Q12, V-Q16. -/
theorem test_refresh_rect :
    refreshRect 3 5 10 10 = some ⟨0, 5, 16, 10⟩ ∧ refreshRect (-4) (-4) 10 10 = some ⟨0, 0, 8, 6⟩
      ∧ refreshRect 196 196 20 20 = some ⟨192, 196, 8, 4⟩ ∧ refreshRect 200 0 10 10 = none ∧ refreshRect 10 10 0 5 = none
      ∧ refreshRect 4 0 20 1 = some ⟨0, 0, 24, 1⟩ ∧ refreshRect 199 199 1 1 = some ⟨192, 199, 8, 1⟩
      ∧ refreshRect (-5) (-5) 5 5 = none ∧ refreshRect (-1000) (-1000) 5000 5000 = some ⟨0, 0, 200, 200⟩ := by decide

/-! ## RefreshModeStrategy and EpdDriver -/

/-- V-I1, V-I2. -/
theorem test_init :
    traceOf (exec .init fresh) = some (pulse ++ initA ++ fr 0x22 [0xE0] ++ fr0 0x20 ++ [.poll .low])
      ∧ flagsOf (exec .init fresh) = some (.on, false, true, false)
      ∧ traceOf (andThen (exec .init fresh) .init) = some initA := by decide
/-- V-I5: REV B sends the five tables and nothing else, then powers on. -/
theorem test_init_rev_b :
    traceOf (exec .init freshB) =
      some (pulse ++ fr 0x20 [1] ++ fr 0x21 [2] ++ fr 0x22 [3] ++ fr 0x23 [4] ++ fr 0x24 [5] ++ fr 0xA5 [0xE0] ++ fr0 0xA4
        ++ [.poll .high]) := by decide
/-- V-F1, V-F4. -/
theorem test_setframe :
    traceOf (exec (.setframe [0xAA, 0xBB, 0xCC, 0xDD] 192 196 20 20) (live .full)) =
        some (fr 0x11 [0x03] ++ fr 0x44 [0x18, 0x18] ++ fr 0x45 [0xC4, 0x00, 0xC7, 0x00] ++ fr 0x4E [0x18]
          ++ fr 0x4F [0xC4, 0x00] ++ fr 0x24 [0xAA, 0xBB, 0xCC, 0xDD])
      ∧ traceOf (exec (.setframe [0xAA, 0xBB, 0xCC, 0xDD] 192 196 20 20) { live .full with orient := .inverted }) =
        some (fr 0x11 [0x00] ++ fr 0x44 [0x00, 0x00] ++ fr 0x45 [0x03, 0x00, 0x00, 0x00] ++ fr 0x4E [0x00]
          ++ fr 0x4F [0x03, 0x00] ++ fr 0x24 [0xAA, 0xBB, 0xCC, 0xDD]) := by decide
/-- V-F5, V-E6: Fast mode with a short buffer; a fresh block in Partial mode. -/
theorem test_setframe_fast_and_partial :
    traceOf (exec (.setframe [0xAA] 192 196 20 20) (live .fast)) =
        some (fr 0x11 [0x03] ++ fr 0x44 [0x18, 0x18] ++ fr 0x45 [0xC4, 0x00, 0xC7, 0x00] ++ fr 0x4E [0x18]
          ++ fr 0x4F [0xC4, 0x00] ++ fr 0x24 [0xAA] ++ fr 0x11 [0x03] ++ fr 0x44 [0x18, 0x18]
          ++ fr 0x45 [0xC4, 0x00, 0xC7, 0x00] ++ fr 0x4E [0x18] ++ fr 0x4F [0xC4, 0x00] ++ fr 0x26 [0, 0, 0, 0])
      ∧ traceOf (exec (.setframe [0xAA, 0xBB] 8 10 16 1) { fresh with mode := .part }) =
        some (pulse ++ initA ++ fr 0x22 [0xE0] ++ fr0 0x20 ++ [.poll .low] ++ fr 0x3C [0x80] ++ fr 0x11 [0x03]
          ++ fr 0x44 [0x01, 0x02] ++ fr 0x45 [0x0A, 0x00, 0x0A, 0x00] ++ fr 0x4E [0x01] ++ fr 0x4F [0x0A, 0x00]
          ++ fr 0x24 [0xAA, 0xBB]) := by decide
/-- V-D1, V-D3, V-D4. -/
theorem test_display :
    traceOf (exec .display { live .full with busyIn := [.high, .high, .low] }) =
        some (fr 0x22 [0xF7] ++ fr0 0x20 ++ fr0 0xFF ++ [.poll .high, .sleep 10, .poll .high, .sleep 10, .poll .low])
      ∧ traceOf (exec .display (live .fast)) =
        some (fr 0x22 [0xC7] ++ fr0 0x20 ++ fr0 0xFF ++ [.poll .low] ++ fr 0x22 [0x83] ++ fr0 0x20 ++ [.poll .low])
      ∧ flagsOf (exec .display (live .fast)) = some (.off, false, true, false)
      ∧ traceOf (andThen (exec .display (live .fast)) .display) =
        some (fr 0x22 [0xC7] ++ fr0 0x20 ++ fr0 0xFF ++ [.poll .low]) := by decide
/-- V-D2, V-D6. -/
theorem test_display_partial :
    traceOf (exec .display (live .part)) = some (fr 0x22 [0xFC] ++ fr0 0x20 ++ fr0 0xFF ++ [.poll .low])
      ∧ traceOf (exec .display { live .part with cfg := { Cfg.default with hasBusy := false } }) =
        some (fr 0x22 [0xFC] ++ fr0 0x20 ++ fr0 0xFF ++ [.sleep 100, .sleep 100, .sleep 100]) := by decide
/-- V-S3, V-E11. -/
theorem test_refresh_first_and_second :
    traceOf (exec (.refresh 50 50 10 10) fresh) = some (fr 0x22 [0xF7] ++ fr0 0x20 ++ fr0 0xFF ++ [.poll .low])
      ∧ traceOf (andThen (exec (.refresh 50 50 10 10) fresh) (.refresh 50 50 10 10)) =
        some (fr 0x11 [0x03] ++ fr 0x44 [0x06, 0x07] ++ fr 0x45 [0x32, 0x00, 0x3B, 0x00] ++ fr 0x4E [0x06]
          ++ fr 0x4F [0x32, 0x00] ++ fr 0x22 [0xF7] ++ fr0 0x20 ++ fr0 0xFF ++ [.poll .low])
      ∧ traceOf (exec (.refresh 0 0 0 0) fresh) = some (fr 0x22 [0xF7] ++ fr0 0x20 ++ fr0 0xFF ++ [.poll .low]) := by decide
/-- V-S4. -/
theorem test_refresh_degenerate :
    traceOf (exec (.refresh 200 0 5 5) { fresh with first := false }) = some []
      ∧ traceOf (exec (.refresh 0 0 (-3) 4) { fresh with first := false }) = some [] := by decide
/-- V-E1, V-E2, V-E3. -/
theorem test_setmode :
    traceOf (exec (.setmode .full) (live .full)) = some []
      ∧ traceOf (exec (.setmode .part) (live .full)) = some (fr 0x22 [0x83] ++ fr0 0x20 ++ [.poll .low])
      ∧ flagsOf (exec (.setmode .part) (live .full)) = some (.off, false, false, false)
      ∧ traceOf (exec (.setmode .fast) fresh) = some [] := by decide
/-- V-E5. -/
theorem test_setorient : exec (.setorient .inverted) (live .full) = .next { live .full with orient := .inverted } := rfl
/-- V-E8, the frames before the 5000 bytes. -/
theorem test_clear :
    (traceOf (exec (.clear 0xFF) (live .full))).map (List.take 22) =
      some (fr 0x11 [0x03] ++ fr 0x44 [0x00, 0x18] ++ fr 0x45 [0x00, 0x00, 0xC7, 0x00] ++ fr 0x4E [0x00] ++ fr 0x4F [0x00, 0x00]
        ++ fr0 0x24) := by decide
/-- V-E13: after PWROFF on an initialized block SETFRAME sends no initialization and no power-on frame. -/
theorem test_setframe_after_pwroff :
    traceOf (andThen (exec .pwroff (live .full)) (.setframe [0x00] 0 0 8 1)) =
      some (fr 0x11 [0x03] ++ fr 0x44 [0x00, 0x00] ++ fr 0x45 [0x00, 0x00, 0x00, 0x00] ++ fr 0x4E [0x00] ++ fr 0x4F [0x00, 0x00]
        ++ fr 0x24 [0x00]) := by decide

/-! ## Controller commands -/

/-- V-K1 to V-K6, V-K9, V-K14. -/
theorem test_register_commands :
    traceOf (exec (.driverOutputControl 199 0) fresh) = some (fr 0x01 [0xC7, 0x00, 0x00])
      ∧ traceOf (exec (.deepSleepMode 0x01) fresh) = some (fr 0x10 [0x01])
      ∧ traceOf (exec (.dataEntryMode 0x03) fresh) = some (fr 0x11 [0x03])
      ∧ traceOf (exec (.tempSensorControl 0x80) fresh) = some (fr 0x18 [0x80])
      ∧ traceOf (exec .masterActivation fresh) = some (fr0 0x20)
      ∧ traceOf (exec (.displayUpdateControl2 0xE0) fresh) = some (fr 0x22 [0xE0])
      ∧ traceOf (exec (.borderWaveform 0x05) fresh) = some (fr 0x3C [0x05])
      ∧ traceOf (exec .terminate fresh) = some (fr0 0xFF) := by decide
/-- V-K7, V-K8, V-K10 to V-K13. -/
theorem test_ram_commands :
    traceOf (exec (.writeRam [0xAA, 0xBB]) fresh) = some (fr 0x24 [0xAA, 0xBB])
      ∧ traceOf (exec (.writeRamRed 3) fresh) = some (fr 0x26 [0, 0, 0])
      ∧ traceOf (exec (.setRamXWindow 0 24) fresh) = some (fr 0x44 [0x00, 0x18])
      ∧ traceOf (exec (.setRamYWindow 0 199) fresh) = some (fr 0x45 [0x00, 0x00, 0xC7, 0x00])
      ∧ traceOf (exec (.setRamXCounter 0) fresh) = some (fr 0x4E [0x00])
      ∧ traceOf (exec (.setRamYCounter 258) fresh) = some (fr 0x4F [0x02, 0x01]) := by decide
/-- R41: REV B by its own map. -/
theorem test_register_commands_b :
    traceOf (exec (.driverOutputControlB 199 0) freshB) = some (fr 0xA0 [0xC7, 0x00, 0x00])
      ∧ traceOf (exec (.deepSleepModeB 0x01) freshB) = some (fr 0xA1 [0x01])
      ∧ traceOf (exec (.dataEntryModeB 0x03) freshB) = some (fr 0xA2 [0x03])
      ∧ traceOf (exec (.tempSensorControlB 0x80) freshB) = some (fr 0xA3 [0x80])
      ∧ traceOf (exec .masterActivationB freshB) = some (fr0 0xA4)
      ∧ traceOf (exec (.displayUpdateControl2B 0xE0) freshB) = some (fr 0xA5 [0xE0])
      ∧ traceOf (exec (.borderWaveformB 0x05) freshB) = some (fr 0xA8 [0x05])
      ∧ traceOf (exec .terminateB freshB) = some (fr0 0xAD) := by decide
theorem test_ram_commands_b :
    traceOf (exec (.writeRamB [0xAA, 0xBB]) freshB) = some (fr 0xA6 [0xAA, 0xBB])
      ∧ traceOf (exec (.writeRamRedB 3) freshB) = some (fr 0xA7 [0, 0, 0])
      ∧ traceOf (exec (.setRamXWindowB 0 24) freshB) = some (fr 0xA9 [0x00, 0x18])
      ∧ traceOf (exec (.setRamYWindowB 0 199) freshB) = some (fr 0xAA [0x00, 0x00, 0xC7, 0x00])
      ∧ traceOf (exec (.setRamXCounterB 0) freshB) = some (fr 0xAB [0x00])
      ∧ traceOf (exec (.setRamYCounterB 258) freshB) = some (fr 0xAC [0x02, 0x01]) := by decide
/-- V-K15. -/
theorem test_luts :
    traceOf (exec (.lut0 [1]) freshB) = some (fr 0x20 [1]) ∧ traceOf (exec (.lut1 [2]) freshB) = some (fr 0x21 [2])
      ∧ traceOf (exec (.lut2 [3]) freshB) = some (fr 0x22 [3]) ∧ traceOf (exec (.lut3 [4]) freshB) = some (fr 0x23 [4])
      ∧ traceOf (exec (.lut4 [5]) freshB) = some (fr 0x24 [5]) := by decide
theorem test_command_refusals :
    exec .terminateB fresh = .refused .notInRevision ∧ exec .terminate freshB = .refused .notInRevision
      ∧ exec (.writeRam []) fresh = .refused .payloadOutsideFormat
      ∧ exec (.lut0 []) freshB = .refused .payloadOutsideFormat := ⟨rfl, rfl, rfl, rfl⟩

/-! ## The step, and the reference model of the controller's RAM -/

/-- R230, R24 (a): idle without a call; one completed operation is one position. -/
theorem test_step :
    step State.reset = .next State.reset
      ∧ traceOf (step { fresh with port := [.host [0x10], .host [0x04]] }) = some pulse := ⟨rfl, by decide⟩
/-- R58 (log entry 20): a plane keeps its cells in order, and a second write to a cell replaces the first. -/
theorem test_plane :
    Memory.write (Memory.write (Memory.write [] 5 1) 2 2) 5 3 = [(2, 2), (5, 3)] ∧ Memory.wf (Memory.write [(2, 2)] 1 7)
      ∧ Memory.read [(2, 2), (5, 3)] 4 = none := by decide
/-- A reference state: a window of two columns and two rows from (x, y), both counters at its start, entry mode `dem`. -/
def refAt (x : Byte) (y : Word16) (dem : Byte) : RefRam :=
  ⟨⟨x, x + 1, y, y + 1, x, y, dem⟩, [(0, 7)], [(0, 9)], some 0xF7, false⟩
/-- The cells of the black/white plane after one frame. -/
def bwAfter (op : Byte) (payload : Option (List Byte)) (m : RefRam) : Option Memory :=
  (m.onFrame Cfg.default ⟨op, payload⟩).map RefRam.bw
/-- The cells of both planes after the frames of a Fast SETFRAME into column 24, rows 10 and 11. -/
def fastFrame (buf : List Byte) (m : RefRam) : Option (List Memory) :=
  (RefRam.onFrames Cfg.default
    (seqFrames Cfg.default (writeFrameSeq Cfg.default .fast .normal buf (calcCoords 192 10 8 2))) m).map
      (fun m' => [m'.bw, m'.red])
/-- R58: a buffer of the window's size fills it left to right, then down; AM = 1 stores its byte at the counters all the same. -/
theorem test_ref_write :
    bwAfter 0x24 (some [1, 2, 3, 4]) (refAt 3 1 0x03) = some [(0, 7), (259, 1), (260, 2), (515, 3), (516, 4)]
      ∧ bwAfter 0x24 (some [5]) { refAt 3 1 0x07 with regs := ⟨3, 3, 1, 1, 3, 1, 0x07⟩ } = some [(0, 7), (259, 5)] := by decide
/-- R164, U3: after a buffer of another size no cell of either plane has a known value. -/
theorem test_ref_length_mismatch :
    (refAt 3 1 0x03).onFrame Cfg.default ⟨0x24, some [1, 2, 3]⟩ =
      some { refAt 3 1 0x03 with regs := ⟨3, 4, 1, 2, 4, 2, 0x03⟩, bw := [], red := [], mismatched := true } := by decide
/-- R164, U3: the red plane's zeros of a Fast SETFRAME whose buffer is too short or too long leave it unknown too; those of one of
the window's size, and of the next such SETFRAME, are known. -/
theorem test_ref_fast_mismatch :
    fastFrame [0xAA] (refAt 3 1 0x03) = some [[], []] ∧ fastFrame [0xAA, 0xBB, 0xCC] (refAt 3 1 0x03) = some [[], []]
      ∧ fastFrame [0xAA, 0xBB] (refAt 3 1 0x03) = some [[(0, 7), (2584, 0xAA), (2840, 0xBB)], [(0, 9), (2584, 0), (2840, 0)]]
      ∧ fastFrame [0xAA, 0xBB] { refAt 3 1 0x03 with bw := [], red := [], mismatched := true } =
        some [[(2584, 0xAA), (2840, 0xBB)], [(2584, 0), (2840, 0)]] := by decide
/-- Any value from there on: a byte off the RAM (R51), an opcode outside the map (U15), a deep sleep, a power-off (R220, U13). A
display activation keeps the RAM. -/
theorem test_ref_any_value :
    bwAfter 0x24 (some [1, 2, 3, 4]) (refAt 24 1 0x03) = none ∧ bwAfter 0x24 (some [1, 2, 3, 4]) (refAt 3 199 0x03) = none
      ∧ bwAfter 0x77 none (refAt 3 1 0x03) = none ∧ bwAfter 0x10 (some [0x01]) (refAt 3 1 0x03) = none
      ∧ bwAfter 0x20 none { refAt 3 1 0x03 with duc := some 0x83 } = none
      ∧ bwAfter 0x20 none (refAt 3 1 0x03) = some [(0, 7)] := by decide

/-! ## The hypotheses of the statements can be met

One theorem for each statement that has hypotheses: a state and operands that meet them together, for each clause, with operands
at the ends of their ranges. The statements without hypotheses hold of any state above. -/

/-- The fresh block with a call on the port. -/
def called : State :=
  { fresh with port := [.host [0x00]] }

theorem test_meets_step_runs :
    called.port = [.host [0x00]] ∧ decode called.cfg (.host [0x00]) = .ok .init := ⟨rfl, rfl⟩
theorem test_meets_step_idles :
    fresh.port = [] ∧ decode fresh.cfg (.host [0x0A]) = .error (.unassignedSelector 0x0A) := ⟨rfl, rfl⟩
/-- Both ranges of selectors at both ends; the first value outside each enumeration and the last, for SETMODE and SETORIENT. -/
theorem test_meets_unassigned :
    (∀ sel ∈ ([0x0A, 0x0F, 0x14, 0xFF] : List Byte), (0x0A ≤ sel.toNat ∧ sel.toNat ≤ 0x0F) ∨ 0x14 ≤ sel.toNat)
      ∧ (∀ m ∈ ([3, 255] : List Byte), 3 ≤ m.toNat) ∧ ∀ o ∈ ([2, 255] : List Byte), 2 ≤ o.toNat := by decide
theorem test_meets_round_trip :
    Cfg.default.wellFormed = true ∧ (Instr.setframe [0xAA] 199 199 8 1).wellFormed = true
      ∧ (Instr.setframe [0xAA] 199 199 8 1).inRevision Cfg.default = true
      ∧ cfgB.wellFormed = true ∧ (Instr.lut4 (List.replicate 56 0)).wellFormed = true
      ∧ (Instr.lut4 (List.replicate 56 0)).inRevision cfgB = true := by decide
theorem test_meets_sendcmd : ([0x00] : List Byte) ≠ [] := by decide
theorem test_meets_waitidle_busy_line :
    (0 : Int) ≤ 0 ∧ fresh.cfg.hasBusy = true ∧ 0 < fresh.cfg.pollMs := by decide
theorem test_meets_waitidle_no_busy_line :
    (0 : Int) ≤ 0 ∧ { Cfg.default with hasBusy := false }.hasBusy = false ∧ 0 < Cfg.default.noBusyStepMs := by decide
/-- Both clauses: with and without a busy line. -/
theorem test_meets_waitidle_bounded :
    (∃ u, fresh.cfg.Timed ∧ exec (.waitidle 0) fresh = .next u ∧ fresh.cfg.hasBusy = true)
      ∧ ∃ u, { Cfg.default with hasBusy := false }.Timed
          ∧ exec (.waitidle 0) (freshOf { Cfg.default with hasBusy := false } []) = .next u :=
  ⟨⟨_, by decide, rfl, rfl⟩, ⟨_, by decide, rfl⟩⟩
theorem test_meets_waitidle_negative : (-1 : Int) < 0 := by decide
/-- The three clauses of PWRON. -/
theorem test_meets_pwron :
    fresh.cfg.Timed ∧ fresh.hib = true ∧ ((live .full).cfg.Timed ∧ (live .full).hib = false ∧ (live .full).power = .on)
      ∧ awake.cfg.Timed ∧ awake.hib = false ∧ awake.power = .off := by decide
/-- The two clauses of PWROFF, the two branches of HIBERNATE, and SLEEP. -/
theorem test_meets_pwroff_hibernate_sleep :
    awake.cfg.Timed ∧ awake.power = .off ∧ (live .part).cfg.Timed ∧ (live .part).power = .on := by decide
theorem test_meets_idempotent :
    (∃ t, exec .pwron awake = .next t) ∧ ∃ t, exec .pwroff (live .full) = .next t := ⟨⟨_, rfl⟩, ⟨_, rfl⟩⟩
/-- The three pairs (POWER, HIB) of R115: (Off, 1), (Off, 0), (On, 0). -/
theorem test_meets_power_transitions :
    (fresh.hib = true → fresh.power = .off) ∧ (awake.hib = true → awake.power = .off) ∧ awake.hib = false
      ∧ ((live .full).hib = true → (live .full).power = .off) ∧ (live .full).hib = false := by decide
theorem test_meets_calc_coords : frameDomain 0 0 8 1 = true ∧ frameDomain 199 199 8 1 = true := by decide
/-- Each clause of REFRESHRECT: a rectangle with one pixel on the panel, and one touching it from outside. -/
theorem test_meets_refresh_rect :
    refreshRect 199 199 1 1 = some ⟨192, 199, 8, 1⟩ ∧ refreshRect (-5) (-5) 5 5 = none := by decide
theorem test_meets_init : fresh.cfg.Timed ∧ (live .part).cfg.Timed := by decide
theorem test_meets_setframe_writes :
    (live .fast).inited = true ∧ (live .fast).initMode = (live .fast).mode ∧ (live .fast).hib = false
      ∧ ([0xAA] : List Byte) ≠ [] ∧ frameDomain 199 199 8 1 = true := by decide
/-- Each way of not being initialized: never, under another mode, hibernated since. -/
theorem test_meets_setframe_initializes :
    ¬ (fresh.inited = true ∧ fresh.initMode = fresh.mode ∧ fresh.hib = false)
      ∧ ¬ ({ live .full with mode := .part }.inited = true ∧ { live .full with mode := .part }.initMode = .part
          ∧ { live .full with mode := .part }.hib = false)
      ∧ ¬ ({ live .full with hib := true }.hib = false) ∧ ([0xAA] : List Byte) ≠ [] ∧ frameDomain 0 0 8 1 = true := by decide
/-- Each side of the domain by one: x, y, w and h. -/
theorem test_meets_setframe_refuses :
    ([0xAA] : List Byte) ≠ [] ∧ ((-1 : Int) < 0 ∧ (200 : Int) ≤ 200 ∧ (7 : Int) < 8 ∧ (0 : Int) < 1) := by decide
/-- The three clauses of DISPLAY. -/
theorem test_meets_display :
    fresh.cfg.Timed ∧ fresh.mode ≠ .fast
      ∧ ({ awake with mode := .fast }.mode = .fast ∧ { awake with mode := .fast }.power = .off)
      ∧ (live .fast).mode = .fast ∧ (live .fast).power = .on := by decide
/-- The three clauses of REFRESH. -/
theorem test_meets_refresh :
    fresh.first = true
      ∧ ({ fresh with first := false }.first = false ∧ refreshRect 200 0 8 1 = none)
      ∧ ∃ r, { fresh with first := false }.first = false ∧ refreshRect 0 0 1 1 = some r := ⟨rfl, ⟨rfl, by decide⟩, ⟨_, rfl, rfl⟩⟩
/-- The three clauses of SETMODE. -/
theorem test_meets_setmode :
    fresh.cfg.Timed ∧ RefreshMode.full = fresh.mode ∧ (RefreshMode.part ≠ fresh.mode ∧ fresh.power = .off)
      ∧ (live .full).cfg.Timed ∧ RefreshMode.part ≠ (live .full).mode ∧ (live .full).power = .on := by decide
theorem test_meets_rev_a_commands : fresh.cfg.rev = .a ∧ ([0xAA] : List Byte) ≠ [] ∧ 1 ≤ 1 := by decide
theorem test_meets_rev_b_commands : freshB.cfg.rev = .b ∧ ([0xAA] : List Byte) ≠ [] ∧ 1 ≤ 1 := by decide
/-- A waveform table of the least and of the greatest length. -/
theorem test_meets_lut_commands :
    freshB.cfg.rev = .b ∧ (1 ≤ ([0] : List Byte).length ∧ ([0] : List Byte).length ≤ 56)
      ∧ 1 ≤ (List.replicate 56 (0 : Byte)).length ∧ (List.replicate 56 (0 : Byte)).length ≤ 56 := by decide
theorem test_meets_other_revision :
    Instr.masterActivationB.inRevision fresh.cfg = false ∧ Instr.masterActivation.inRevision freshB.cfg = false := by decide
theorem test_meets_command_row :
    (Instr.writeRam [0xAA]).command = some (.writeRam, some [0xAA]) ∧ (Instr.writeRam [0xAA]).wellFormed = true
      ∧ (Instr.writeRam [0xAA]).inRevision fresh.cfg = true := by decide
/-- A state with the call INIT on the port meets every invariant, and its step answers a next state. -/
theorem test_meets_step_invariants :
    ∃ t, called.Inv ∧ called.LatchesMatchTrace ∧ called.TraceDecodes ∧ called.AbsentLinesSilent ∧ step called = .next t :=
  ⟨_, ⟨fun _ => rfl, fun _ => rfl, nofun, nofun, rfl⟩, ⟨rfl, rfl, rfl⟩, rfl, ⟨fun _ => ⟨rfl, nofun⟩, nofun⟩, rfl⟩
/-- Each binding changed once: MODE, ORIENT and FIRST. -/
theorem test_meets_bindings :
    (∃ t, exec (.setmode .fast) fresh = .next t ∧ t.mode ≠ fresh.mode)
      ∧ (∃ t, exec (.setorient .inverted) fresh = .next t ∧ t.orient ≠ fresh.orient)
      ∧ ∃ t, exec (.refresh 0 0 1 1) fresh = .next t ∧ t.first ≠ fresh.first :=
  ⟨⟨_, rfl, nofun⟩, ⟨_, rfl, nofun⟩, ⟨_, rfl, nofun⟩⟩
/-- Each flag set and cleared once. -/
theorem test_meets_flags :
    (∃ t, exec .pwron awake = .next t ∧ awake.power = .off ∧ t.power = .on)
      ∧ (∃ t, exec .pwroff (live .full) = .next t ∧ (live .full).power = .on ∧ t.power = .off)
      ∧ (∃ t, exec .hibernate awake = .next t ∧ awake.hib = false ∧ t.hib = true)
      ∧ (∃ t, exec .reset fresh = .next t ∧ fresh.hib = true ∧ t.hib = false)
      ∧ (∃ t, exec .init fresh = .next t ∧ fresh.inited = false ∧ t.inited = true)
      ∧ (∃ t, exec .reset (live .full) = .next t ∧ (live .full).inited = true ∧ t.inited = false)
      ∧ (∃ t, exec .init { fresh with mode := .part } = .next t ∧ fresh.platch = false ∧ t.platch = true)
      ∧ ∃ t, exec .pwroff (live .part) = .next t ∧ (live .part).platch = true ∧ t.platch = false :=
  ⟨⟨_, rfl, rfl, rfl⟩, ⟨_, rfl, rfl, rfl⟩, ⟨_, rfl, rfl, rfl⟩, ⟨_, rfl, rfl, rfl⟩, ⟨_, rfl, rfl, rfl⟩, ⟨_, rfl, rfl, rfl⟩,
    ⟨_, rfl, rfl, rfl⟩, ⟨_, rfl, rfl, rfl⟩⟩
/-- Each clause of the driver state machine. -/
theorem test_meets_driver_state_machine :
    fresh.Inv ∧ (∃ t, exec .init fresh = .next t ∧ Instr.init.mayInit = true)
      ∧ (∃ t, exec (.setmode .part) fresh = .next t ∧ RefreshMode.part ≠ fresh.mode)
      ∧ (∃ t, exec (.setmode fresh.mode) fresh = .next t) ∧ (∃ t, exec .sleep fresh = .next t)
      ∧ ∃ t, exec .display fresh = .next t ∧ Instr.display.mayInit = false :=
  ⟨⟨fun _ => rfl, fun _ => rfl, nofun, nofun, rfl⟩, ⟨_, rfl, rfl⟩, ⟨_, rfl, nofun⟩, ⟨_, rfl⟩, ⟨_, rfl⟩, ⟨_, rfl, rfl⟩⟩
/-- A controller idle at once and one busy beyond the bound of the power-on wait. -/
theorem test_meets_timeouts :
    ∃ t, SameButInputs awake { awake with busyIn := List.replicate 11 .high } ∧ exec .pwron awake = .next t := ⟨_, rfl, rfl⟩
theorem test_meets_public_operations :
    ∃ t, fresh.cfg.wellFormed = true ∧ (Instr.setframe [0xAA] 0 0 8 1).isPublic = true
      ∧ exec (.setframe [0xAA] 0 0 8 1) fresh = .next t := ⟨_, by decide, rfl, rfl⟩
theorem test_meets_mode_round_trip :
    ∃ t1 t2 t3 u, (live .full).cfg.initResetPolicy = .ifHibernating ∧ (live .full).mode = .full ∧ (live .full).hib = false
      ∧ exec (.setmode .part) (live .full) = .next t1 ∧ exec (.setmode .full) t1 = .next t2 ∧ exec .init t2 = .next t3
      ∧ exec .init (State.construct (live .full).cfg) = .next u := ⟨_, _, _, _, rfl, rfl, rfl, rfl, rfl, rfl, rfl⟩
theorem test_meets_hibernate_reinitializes :
    ∃ t u, exec .hibernate (live .full) = .next t ∧ exec (.setframe [0xAA] 0 0 8 1) t = .next u := ⟨_, _, rfl, rfl⟩
theorem test_meets_fast_display :
    ∃ t, (live .fast).mode = .fast ∧ exec .display (live .fast) = .next t ∧ (live .fast).inited = true
      ∧ (live .fast).initMode = .fast ∧ (live .fast).hib = false ∧ ([0xAA] : List Byte) ≠ [] ∧ frameDomain 0 0 8 1 = true :=
  ⟨_, rfl, rfl, rfl, rfl, rfl, nofun, rfl⟩
/-- The smallest window, the last byte of the panel and the whole panel; the first and the last byte of a window. -/
theorem test_meets_reference_windows :
    Cfg.default.wellFormed = true ∧ Cfg.default.demNormal = 0x03 ∧ Cfg.default.demInverted = 0x00
      ∧ Window.OnPanel ⟨0, 0, 7, 0⟩ ∧ Window.OnPanel ⟨192, 199, 199, 199⟩ ∧ Window.OnPanel ⟨0, 0, 199, 199⟩
      ∧ 0 < Window.byteCount ⟨0, 0, 7, 0⟩ ∧ 4999 < Window.byteCount ⟨0, 0, 199, 199⟩ := by
  unfold Window.OnPanel
  decide

end Sys2Proof.Tests
end

section
/-!
PROOF. The family of 40_command_channel.md: what the events of one command frame leave on the output lines, the state after a
frame written out field by field, and SENDCMD as a host operation.
-/

namespace Sys2Proof.Machine

open Sys2Proof

/-! ### The events of a frame, written out -/

theorem frameEvents_none (b : Bool) (op : Byte) :
    frameEvents b op none =
      if b then [.line .dc .low, .line .cs .low, .bus [op], .line .cs .high] else [.line .dc .low, .bus [op]] := by
  cases b <;> rfl

theorem frameEvents_some (b : Bool) (op : Byte) (payload : List Byte) :
    frameEvents b op (some payload) =
      if b then
        [.line .dc .low, .line .cs .low, .bus [op], .line .cs .high, .line .dc .high, .line .cs .low, .bus payload,
          .line .cs .high]
      else [.line .dc .low, .bus [op], .line .dc .high, .bus payload] := by
  cases b <;> rfl

/-! ### What a frame leaves on the output lines -/

/-- DC is left at the level of the last transaction: high for a payload, low for a bare opcode (R104). -/
theorem lastDrive_dc_frameEvents (b : Bool) (op : Byte) (p : Option (List Byte)) :
    lastDrive .dc (frameEvents b op p) = some (if p.isSome then .high else .low) := by
  cases p with
  | none => cases b <;> rfl
  | some payload => cases b <;> rfl

/-- Every transaction releases chip-select, and without the line nothing drives it (R100). -/
theorem lastDrive_cs_frameEvents (b : Bool) (op : Byte) (p : Option (List Byte)) :
    lastDrive .cs (frameEvents b op p) = if b then some .high else none := by
  cases p with
  | none => cases b <;> rfl
  | some payload => cases b <;> rfl

theorem lastDrive_rst_frameEvents (b : Bool) (op : Byte) (p : Option (List Byte)) :
    lastDrive .rst (frameEvents b op p) = none :=
  lastDrive_none_of _ _ (frameEvents_drives_rst b op p)

/-- SENDCMD never polls BUSY (R102). -/
theorem pollCount_frameEvents (b : Bool) (op : Byte) (p : Option (List Byte)) : pollCount (frameEvents b op p) = 0 :=
  List.countP_eq_zero.2 fun e he => by simp [frameEvents_no_poll b op p e he]

/-- One frame changes DC, CS and the trace, and nothing else. -/
theorem State.after_frameEvents (s : State) (op : Byte) (p : Option (List Byte)) :
    s.after (frameEvents s.cfg.hasCs op p) =
      { s with
        dc := some (if p.isSome then .high else .low)
        cs := if s.cfg.hasCs then some .high else s.cs
        trace := s.trace ++ frameEvents s.cfg.hasCs op p } := by
  have hcs : (if s.cfg.hasCs then some Level.high else none).or s.cs = if s.cfg.hasCs then some .high else s.cs := by
    cases s.cfg.hasCs <;> rfl
  simp only [State.after, lastDrive_dc_frameEvents, lastDrive_cs_frameEvents, lastDrive_rst_frameEvents,
    pollCount_frameEvents, hcs, Option.some_or, Option.getD_none, List.drop_zero, Nat.add_zero]

/-! ### SENDCMD at the port -/

/-- SENDCMD of an absent or a non-empty payload completes from every state, by its one frame (R100, R102). -/
theorem exec_sendcmd_of_payloadPresent (op : Byte) (p : Option (List Byte)) (s : State) (h : payloadPresent p = true) :
    exec (.sendcmd op p) s = .next (s.after (frameEvents s.cfg.hasCs op p)) := by
  rw [← State.sendCmd_eq_after]
  exact if_pos h

/-- Settles O9: SENDCMD is its one frame, whose events and last driven levels are known in both cases of the payload. -/
theorem sendcmdEmitsOneFrame : Obligations.SendcmdEmitsOneFrame := by
  unfold Obligations.SendcmdEmitsOneFrame
  intro op s
  constructor
  case left =>
    rw [exec_sendcmd_of_payloadPresent op none s rfl, State.after_frameEvents, frameEvents_none]
    rfl
  case right =>
    intro payload hne
    have hp : payloadPresent (some payload) = true := by simpa [payloadPresent] using hne
    rw [exec_sendcmd_of_payloadPresent op _ s hp, State.after_frameEvents, frameEvents_some]
    rfl

end Sys2Proof.Machine
end

section
/-!
PROOF. The family of 41_power_controller.md: what a bounded wait leaves of the state, WAITIDLE at the port, and SLEEP as
HIBERNATE followed by a wait.
-/

namespace Sys2Proof.Machine

open Sys2Proof

/-! ### What a wait changes -/

/-- The events of a wait drive no line, so they leave the latches: only the trace and the inputs move. -/
theorem State.after_isWait (s : State) (es : List Event) (h : ∀ e ∈ es, e.isWait s.cfg) :
    s.after es =
      { s with
        trace := s.trace ++ es
        busyIn := s.busyIn.drop (pollCount es)
        polls := s.polls + pollCount es } := by
  have hl : ∀ l, lastDrive l es = none := fun l =>
    lastDrive_none_of l es fun e he => drives_none_of_isWait l s.cfg e (h e he)
  simp only [State.after, hl, Option.none_or, Option.getD_none]

/-- A wait of any length changes the trace and the inputs only (R110). -/
theorem State.waitIdle_frame (s : State) (t : Nat) :
    { s.waitIdle t with trace := s.trace, busyIn := s.busyIn, polls := s.polls } = s := by
  obtain ⟨es, hes, hw⟩ := State.waitIdle_keeps s t
  rw [hes, State.after_isWait s es hw]

/-! ### WAITIDLE at the port -/

/-- WAITIDLE of a time that is not negative completes from every state, as the bounded wait (R110). -/
theorem exec_waitidle_natCast (t : Nat) (s : State) : exec (.waitidle t) s = .next (s.waitIdle t) := by
  change execWaitidle t s = _
  rw [execWaitidle, if_pos (Int.natCast_nonneg t), Int.toNat_natCast]

/-- Settles O21: SLEEP is by definition the state of HIBERNATE and a wait on it, and the wait leaves every other field. -/
theorem sleepIsHibernateThenWait : Obligations.SleepIsHibernateThenWait := by
  unfold Obligations.SleepIsHibernateThenWait
  intro s
  exact ⟨s.hibernate, s.hibernate.waitIdle s.cfg.tSleepFinal, rfl, exec_waitidle_natCast _ _, rfl,
    State.waitIdle_frame _ _⟩

end Sys2Proof.Machine
end

section
/-!
PROOF. The family of 42_ram_address_mapper.md: CALCCOORDS by floor division and minima, the inverted corners as a reflection,
and REFRESHRECT as clipping followed by outward expansion.
-/

namespace Sys2Proof.Machine

open Sys2Proof

/-! ### CALCCOORDS -/

/-- Clipping an exclusive end `e` to a panel of `n` pixels, as an inclusive end (R130). -/
theorem clippedEnd_eq_min (n e : Int) : (if n ≤ e then n - 1 else e - 1) = min (e - 1) (n - 1) := by
  split
  case isTrue h => exact (min_eq_right (Int.sub_le_sub_right h 1)).symm
  case isFalse h => exact (min_eq_left (Int.sub_le_sub_right (not_le.mp h).le 1)).symm

/-- Taking the rest modulo 8 off a coordinate is the model's way to align it down. -/
theorem sub_emod_gran (x : Int) : x - x % Config.gran = 8 * (x / 8) :=
  (Int.mul_ediv_self x 8).symm

/-- The equivalent form of R130. -/
theorem calcCoords_eq (x y w h : Int) :
    calcCoords x y w h =
      ⟨8 * (x / 8), y, min (8 * (x / 8) + 8 * (w / 8) - 1) 199, min (y + h - 1) 199⟩ := by
  simp only [calcCoords, sub_emod_gran, clippedEnd_eq_min]
  rfl

/-- Settles O23: the model's conditionals are the minima of the equivalent form. -/
theorem calcCoordsAlignsAndClips : Obligations.CalcCoordsAlignsAndClips := by
  unfold Obligations.CalcCoordsAlignsAndClips
  intro x y w h
  rw [calcCoords_eq]
  exact ⟨rfl, rfl, rfl, rfl⟩

/-! ### The reflection of corner addresses -/

/-- The addresses of both corners rotated by 180° on the panel of 25 byte-columns and 200 rows (R135, R137). -/
def Corners.reflect (a : Corners) : Corners :=
  ⟨24 - a.cs, 24 - a.ce, 199 - a.rs, 199 - a.re⟩

theorem Corners.reflect_reflect (a : Corners) : a.reflect.reflect = a := by
  simp only [Corners.reflect, sub_sub_cancel]

theorem Window.corners_inverted (r : Window) : r.corners .inverted = (r.corners .normal).reflect := rfl

theorem Window.reflect_corners_inverted (r : Window) : (r.corners .inverted).reflect = r.corners .normal := by
  rw [r.corners_inverted, Corners.reflect_reflect]

/-- Settles O25: Inverted corners are the reflected Normal ones, and the reflection is an involution. -/
theorem invertedCornersAreReflected : Obligations.InvertedCornersAreReflected := by
  unfold Obligations.InvertedCornersAreReflected
  intro r
  have hinv := r.corners_inverted
  have hback := r.reflect_corners_inverted
  exact ⟨congrArg Corners.cs hinv, congrArg Corners.ce hinv, congrArg Corners.rs hinv, congrArg Corners.re hinv,
    congrArg Corners.cs hback, congrArg Corners.ce hback, congrArg Corners.rs hback, congrArg Corners.re hback⟩

/-! ### Outward expansion -/

/-- The rectangle from column `l` up to but not including `r`, rows `t` up to `b`, with its left side moved down and its right
side moved up to a multiple of 8 (R136). -/
def expandOutward (l t r b : Int) : Rect :=
  ⟨8 * (l / 8), t, 8 * ((r + 7) / 8) - 8 * (l / 8), b - t⟩

/-- "grow width by the start offset into its byte, then round up to the next multiple of 8" gives the distance between the
start aligned down and the end aligned up. -/
theorem grownWidth_eq (l r : Int) :
    (if 0 < (r - l + l % 8) % 8 then r - l + l % 8 + 8 - (r - l + l % 8) % 8 else r - l + l % 8) =
      8 * ((r + 7) / 8) - 8 * (l / 8) := by
  have hg : r - l + l % 8 = r - 8 * (l / 8) := by omega
  rw [hg]
  split <;> omega

/-- What the expansion of a nonempty part of the panel is: on the panel, in whole byte-columns, with a pixel at least. -/
theorem expandOutward_onPanel {l t r b : Int} (hl : 0 ≤ l) (hlr : l < r) (hr : r ≤ 200) (ht : 0 ≤ t) (htb : t < b)
    (hb : b ≤ 200) : (expandOutward l t r b).window.OnPanel := by
  simp only [Window.OnPanel, Rect.window, expandOutward]
  omega

theorem expandOutward_w_emod (l t r b : Int) : (expandOutward l t r b).w % 8 = 0 := by
  simp only [expandOutward]
  omega

theorem le_expandOutward_w {l r : Int} (t b : Int) (hlr : l < r) : 8 ≤ (expandOutward l t r b).w := by
  simp only [expandOutward]
  omega

/-- The expansion excludes no pixel. -/
theorem expandOutward_contains {l t r b px py : Int} (hl : l ≤ px) (hr : px < r) (ht : t ≤ py) (hb : py < b) :
    (expandOutward l t r b).window.contains px py := by
  simp only [Window.contains, Rect.window, expandOutward]
  omega

/-- The expansion is to the nearest boundaries: less than 8 pixels to the left. -/
theorem lt_expandOutward_x (l t r b : Int) : l - 8 < (expandOutward l t r b).x := by
  simp only [expandOutward]
  omega

/-- The expansion is to the nearest boundaries: less than 8 pixels to the right. -/
theorem expandOutward_end_lt (l t r b : Int) :
    (expandOutward l t r b).x + (expandOutward l t r b).w < r + 8 := by
  simp only [expandOutward]
  omega

/-! ### REFRESHRECT -/

/-- REFRESHRECT is the expansion of the clipped request where a pixel of it is left in both directions, else none (R136). -/
theorem refreshRect_eq (x y w h : Int) :
    refreshRect x y w h =
      if max x 0 < min (x + w) 200 ∧ max y 0 < min (y + h) 200 then
        some (expandOutward (max x 0) (max y 0) (min (x + w) 200) (min (y + h) 200))
      else none := by
  simp only [refreshRect, Config.width, Config.height, sub_emod_gran, grownWidth_eq, ← not_lt, ← not_and_or, ite_not, sub_pos]
  rfl

theorem refreshRect_eq_none_iff (x y w h : Int) :
    refreshRect x y w h = none ↔ ¬ (max x 0 < min (x + w) 200 ∧ max y 0 < min (y + h) 200) := by
  simp only [refreshRect_eq, ite_eq_right_iff, reduceCtorEq, imp_false]

/-- What REFRESHRECT can return. -/
theorem refreshRect_cases {x y w h : Int} {r : Rect} (hr : refreshRect x y w h = some r) :
    max x 0 < min (x + w) 200 ∧ max y 0 < min (y + h) 200
      ∧ r = expandOutward (max x 0) (max y 0) (min (x + w) 200) (min (y + h) 200) := by
  rw [refreshRect_eq] at hr
  split at hr
  case isTrue hc => exact ⟨hc.1, hc.2, (Option.some.inj hr).symm⟩
  case isFalse => cases hr

/-- A pixel of the panel lies in the request exactly if the clipped request is nonempty in both directions: its first pixel is
a witness. -/
theorem exists_pixel_iff (x y w h : Int) :
    (∃ px py : Int, 0 ≤ px ∧ px < 200 ∧ 0 ≤ py ∧ py < 200 ∧ x ≤ px ∧ px < x + w ∧ y ≤ py ∧ py < y + h) ↔
      max x 0 < min (x + w) 200 ∧ max y 0 < min (y + h) 200 := by
  constructor
  case mp =>
    rintro ⟨px, py, hpixel⟩
    omega
  case mpr =>
    intro hclip
    exact ⟨max x 0, max y 0, by omega⟩

/-- Settles O24: REFRESHRECT is the outward expansion of the clipped request, whose bounds are those of the expansion. -/
theorem refreshRectCoversRequest : Obligations.RefreshRectCoversRequest := by
  unfold Obligations.RefreshRectCoversRequest
  intro x y w h
  constructor
  case left => rw [refreshRect_eq_none_iff, exists_pixel_iff]
  case right =>
    intro r hr
    obtain ⟨hx, hy, rfl⟩ := refreshRect_cases hr
    refine ⟨expandOutward_onPanel (le_max_right x 0) hx (min_le_right _ _) (le_max_right y 0) hy (min_le_right _ _),
      expandOutward_w_emod .., le_expandOutward_w _ _ hx, Int.sub_pos_of_lt hy, ?contains,
      lt_expandOutward_x .., expandOutward_end_lt .., rfl, add_sub_cancel _ _⟩
    case contains =>
      intro px py hpx hpx' hpy hpy' hxl hxr hyt hyb
      exact expandOutward_contains (max_le hxl hpx) (lt_min hxr hpx') (max_le hyt hpy) (lt_min hyb hpy')

end Sys2Proof.Machine
end

section
/-!
PROOF. The family of 44_epd_driver.md: SETORIENT at the port.
-/

namespace Sys2Proof.Machine

open Sys2Proof

/-- Settles O34: the step dispatches to SETORIENT, whose whole effect is the write of ORIENT (R162). -/
theorem setorientChangesOrientationOnly : Obligations.SetorientChangesOrientationOnly := by
  unfold Obligations.SetorientChangesOrientationOnly
  intro o s
  calc exec (.setorient o) s
    _ = execSetorient o s := rfl
    _ = .next { s with orient := o } := rfl

end Sys2Proof.Machine
end

section
/-!
PROOF. Command rows and the encoding: a command row is one frame of its revision's map, as SENDCMD is, and every instruction is
read back from its call (30_encoding.md, 45_controller_commands.md).
-/

namespace Sys2Proof

/-! ### Opcodes name commands -/

/-- On a list whose images under `f` are distinct, the first element with the image of `a` is `a`. -/
theorem find?_beq_of_nodup_map {α β : Type} [BEq β] [LawfulBEq β] {f : α → β} {l : List α} {a : α}
    (hl : (l.map f).Nodup) (ha : a ∈ l) : l.find? (fun b => f b == f a) = some a := by
  cases hfind : l.find? (fun b => f b == f a) with
  | none => exact absurd (beq_self_eq_true (f a)) (List.find?_eq_none.1 hfind a ha)
  | some b =>
    have hb : f b = f a := by simpa using List.find?_some hfind
    rw [List.inj_on_of_nodup_map hl (List.mem_of_find?_eq_some hfind) ha hb]

theorem Cfg.opcodes_nodup {c : Cfg} (hc : c.wellFormed = true) : (c.commands.map c.opcode).Nodup := by
  simp only [Cfg.wellFormed, Bool.and_eq_true, decide_eq_true_eq] at hc
  obtain ⟨⟨⟨⟨⟨⟨⟨⟨hnodup, -⟩, -⟩, -⟩, -⟩, -⟩, -⟩, -⟩, -⟩ := hc
  exact hnodup

/-- The opcode map is injective, so an opcode is read back to its command (R41, R88). -/
theorem Cfg.commandAt_opcode {c : Cfg} {n : Command} (hc : c.wellFormed = true) (hn : n ∈ c.commands) :
    c.commandAt (c.opcode n) = some n :=
  find?_beq_of_nodup_map (Cfg.opcodes_nodup hc) hn

theorem Cfg.mem_commands_of_mem_common {n : Command} (c : Cfg) (hn : n ∈ Command.common) : n ∈ c.commands := by
  unfold Cfg.commands
  split
  case h_1 => exact hn
  case h_2 => exact List.mem_append_right _ hn

/-! ### What a command row stands for -/

/-- The command of a row of the machine's revision is in its map (R41). -/
theorem Instr.command_mem {i : Instr} {n : Command} {p : Option (List Byte)} {c : Cfg} (hi : i.command = some (n, p))
    (hr : i.inRevision c = true) : n ∈ c.commands := by
  cases i
  case lut0 | lut1 | lut2 | lut3 | lut4 =>
    cases hi
    have hrev : c.rev = .b := (eq_of_beq hr).symm
    rw [Cfg.commands, hrev]
    exact List.mem_append_left _ (by decide)
  all_goals cases hi <;> exact c.mem_commands_of_mem_common (by decide)

/-- The decoder reads a row back from its command and its payload (R81, R84). -/
theorem Instr.toInstr_of_command {i : Instr} {n : Command} {p : Option (List Byte)} {c : Cfg}
    (hi : i.command = some (n, p)) (hw : i.wellFormed = true) (hr : i.inRevision c = true) :
    n.toInstr c.rev (p.getD []) = some i := by
  cases i <;> cases hi <;> rw [← eq_of_beq hr]
  case writeRam buf | writeRamB buf =>
    cases buf with
    | nil => cases hw
    | cons b bs => rfl
  case writeRamRed k | writeRamRedB k =>
    cases k with
    | zero => cases hw
    | succ k => simp [Command.toInstr, Revision.pick, List.replicate_succ]
  case lut0 t | lut1 t | lut2 t | lut3 t | lut4 t => exact if_pos hw
  all_goals simp [Command.toInstr, Revision.pick, rowBytes, rowOf_rowBytes]

/-! ### Host calls -/

/-- An instruction is a command row or one of the fourteen host operations (R89, R95). -/
theorem Instr.row_or_host {motive : Instr → Prop}
    (row : ∀ i n p, i.command = some (n, p) → motive i)
    (init : motive .init) (setmode : ∀ m, motive (.setmode m)) (setorient : ∀ o, motive (.setorient o))
    (setframe : ∀ buf x y w h, motive (.setframe buf x y w h)) (display : motive .display)
    (refresh : ∀ x y w h, motive (.refresh x y w h)) (clear : ∀ fill, motive (.clear fill))
    (hibernate : motive .hibernate) (sleep : motive .sleep) (waitidle : ∀ t, motive (.waitidle t))
    (reset : motive .reset) (pwron : motive .pwron) (pwroff : motive .pwroff)
    (sendcmd : ∀ op p, motive (.sendcmd op p)) (i : Instr) : motive i := by
  cases i
  case init => exact init
  case setmode m => exact setmode m
  case setorient o => exact setorient o
  case setframe buf x y w h => exact setframe buf x y w h
  case display => exact display
  case refresh x y w h => exact refresh x y w h
  case clear fill => exact clear fill
  case hibernate => exact hibernate
  case sleep => exact sleep
  case waitidle t => exact waitidle t
  case reset => exact reset
  case pwron => exact pwron
  case pwroff => exact pwroff
  case sendcmd op p => exact sendcmd op p
  all_goals exact row _ _ _ rfl

/-- Four integers that end a call are read back. -/
theorem decodeInts4_encode_end (x y w h : Int) :
    decodeInts4 (encodeInt x ++ (encodeInt y ++ (encodeInt w ++ encodeInt h))) = some (x, y, w, h, []) := by
  have hd := decodeInts4_encode x y w h []
  rwa [List.append_nil] at hd

/-- A host operation is read back from its selector and its operand bytes (R90). -/
theorem decodeHost_encode {i : Instr} (hi : i.command = none) : decodeHost (i.selector :: i.operandBytes) = .ok i := by
  induction i using Instr.row_or_host
  case row hrow => exact absurd (hi.symm.trans hrow) nofun
  case setmode m => cases m <;> rfl
  case setorient o => cases o <;> rfl
  case setframe buf x y w h =>
    change frameOperands _ = _
    simp [frameOperands, Instr.operandBytes, decodeInts4_encode]
  case refresh x y w h =>
    change refreshOperands _ = _
    simp [refreshOperands, Instr.operandBytes, decodeInts4_encode_end, noOperands]
  case waitidle t =>
    have hd := decodeInt_encodeInt t []
    rw [List.append_nil] at hd
    change waitOperands (encodeInt t) = _
    simp [waitOperands, hd, noOperands]
  case sendcmd op p => cases p <;> rfl
  all_goals rfl

/-- A frame whose opcode and payload are those of a row of the machine's revision is that row (R88). -/
theorem decodeFrame_of_command {i : Instr} {n : Command} {p : Option (List Byte)} {c : Cfg} (hc : c.wellFormed = true)
    (hi : i.command = some (n, p)) (hw : i.wellFormed = true) (hr : i.inRevision c = true) :
    decodeFrame c (c.opcode n :: p.getD []) = .ok i := by
  simp only [decodeFrame, Cfg.commandAt_opcode hc (Instr.command_mem hi hr), Option.bind_some,
    Instr.toInstr_of_command hi hw hr]

/-- Settles O8: a row is read back through the injective opcode map, a host operation by its selector and operands. -/
theorem decodeEncodeRoundTrip : Obligations.DecodeEncodeRoundTrip := by
  unfold Obligations.DecodeEncodeRoundTrip
  intro c i hc hw hr
  cases hi : i.command with
  | none =>
    rw [encode, hi]
    exact decodeHost_encode hi
  | some q =>
    obtain ⟨n, p⟩ := q
    rw [encode, hi]
    exact decodeFrame_of_command hc hi hw hr

end Sys2Proof
end

section
/-!
PROOF. The controller commands as instructions (45_controller_commands.md): every row answers what its frame's SENDCMD answers.
-/

namespace Sys2Proof.Machine

open Sys2Proof

/-! ### What a command row answers -/

/-- A row is the frame of its command in its own revision, and its operands are in their domain where its payload has the
format of the command (R81, R180 to R198). -/
theorem exec_eq_execCommand {i : Instr} {n : Command} {p : Option (List Byte)} (hi : i.command = some (n, p)) :
    ∃ rev, i.revision = some rev ∧ n.payloadOk p = i.wellFormed ∧ ∀ s, exec i s = execCommand rev n p s := by
  cases i <;> cases hi
  case writeRam buf | writeRamB buf =>
    exact ⟨_, rfl, by cases buf <;> simp [Command.payloadOk, Instr.wellFormed], fun _ => rfl⟩
  all_goals exact ⟨_, rfl, by simp [Command.payloadOk, Instr.wellFormed, rowBytes], fun _ => rfl⟩

/-- A row of the other revision is refused (R41). -/
theorem exec_row_of_not_inRevision {i : Instr} {n : Command} {p : Option (List Byte)} {s : State}
    (hi : i.command = some (n, p)) (hr : i.inRevision s.cfg = false) : exec i s = .refused .notInRevision := by
  obtain ⟨rev, hrev, -, hexec⟩ := exec_eq_execCommand hi
  have hne : rev ≠ s.cfg.rev := by simpa [Instr.inRevision, hrev] using hr
  rw [hexec, execCommand, if_pos hne.symm]

/-- A row of the machine's revision is one frame, or refused where its payload has not the format of its command. -/
theorem exec_row_of_inRevision {i : Instr} {n : Command} {p : Option (List Byte)} {s : State}
    (hi : i.command = some (n, p)) (hr : i.inRevision s.cfg = true) :
    exec i s =
      if i.wellFormed then .next (s.after (frameEvents s.cfg.hasCs (s.cfg.opcode n) p))
      else .refused .payloadOutsideFormat := by
  obtain ⟨rev, hrev, hok, hexec⟩ := exec_eq_execCommand hi
  have heq : rev = s.cfg.rev := by simpa [Instr.inRevision, hrev] using hr
  rw [hexec, execCommand, if_neg (not_not.2 heq.symm), hok, State.send_eq_after]

/-- A well-formed row of the machine's revision is exactly its frame (R100). -/
theorem exec_row {i : Instr} {n : Command} {p : Option (List Byte)} {s : State} (hi : i.command = some (n, p))
    (hw : i.wellFormed = true) (hr : i.inRevision s.cfg = true) :
    exec i s = .next (s.after (frameEvents s.cfg.hasCs (s.cfg.opcode n) p)) := by
  rw [exec_row_of_inRevision hi hr, if_pos hw]

/-- What a row that completes has done. -/
theorem exec_row_cases {i : Instr} {n : Command} {p : Option (List Byte)} {s t : State} (hi : i.command = some (n, p))
    (h : exec i s = .next t) :
    i.wellFormed = true ∧ i.inRevision s.cfg = true ∧ t = s.after (frameEvents s.cfg.hasCs (s.cfg.opcode n) p) := by
  cases hr : i.inRevision s.cfg with
  | false =>
    rw [exec_row_of_not_inRevision hi hr] at h
    cases h
  | true =>
    rw [exec_row_of_inRevision hi hr] at h
    split at h
    case isTrue hw =>
      cases h
      exact ⟨hw, rfl, rfl⟩
    case isFalse => cases h

/-- A well-formed row's payload is absent or not empty (R101). -/
theorem payloadPresent_of_command {i : Instr} {n : Command} {p : Option (List Byte)} (hi : i.command = some (n, p))
    (hw : i.wellFormed = true) : payloadPresent p = true := by
  obtain ⟨-, -, hok, -⟩ := exec_eq_execCommand hi
  rw [hw] at hok
  rw [payloadPresent, bne_iff_ne]
  rintro rfl
  cases n <;> cases hok

/-- Settles O43: both are the one frame of the opcode and the payload. -/
theorem commandRowIsSendcmd : Obligations.CommandRowIsSendcmd := by
  unfold Obligations.CommandRowIsSendcmd
  intro i s n p hi hw hr
  rw [exec_row hi hw hr, exec_sendcmd_of_payloadPresent _ _ _ (payloadPresent_of_command hi hw)]

/-- Settles O42: an instruction outside the machine's revision is a command row, and the row is refused. -/
theorem otherRevisionsCommandsRefused : Obligations.OtherRevisionsCommandsRefused := by
  unfold Obligations.OtherRevisionsCommandsRefused
  intro i s hr
  induction i using Instr.row_or_host
  case row hi => exact exec_row_of_not_inRevision hi hr
  all_goals cases hr

/-! ### The rows of each revision, written out -/

/-- A row field's two bytes are its low and its high half (R59 (b)). -/
theorem rowBytes_toNat (r : Word16) : rowBytes r.toNat = [r.extractLsb' 0 8, r.extractLsb' 8 8] := by
  have hlo : lo8 r.toNat = r.extractLsb' 0 8 := by
    apply BitVec.eq_of_toNat_eq
    simp only [lo8, BitVec.toNat_ofInt, BitVec.extractLsb'_toNat]
    omega
  have hhi : hi8 r.toNat = r.extractLsb' 8 8 := by
    apply BitVec.eq_of_toNat_eq
    simp only [hi8, BitVec.toNat_ofInt, BitVec.extractLsb'_toNat, Nat.shiftRight_eq_div_pow]
    omega
  rw [rowBytes, hlo, hhi]

/-- A well-formed row on a machine of its revision, its opcode read from the map. -/
theorem exec_row_of_rev {i : Instr} {rev : Revision} {n : Command} {op : Byte} {p : Option (List Byte)} {s : State}
    (hrev : s.cfg.rev = rev) (hi : i.command = some (n, p)) (hr : i.revision = some rev) (hop : s.cfg.opcode n = op)
    (hw : i.wellFormed = true) : exec i s = .next (s.after (frameEvents s.cfg.hasCs op p)) := by
  have hin : i.inRevision s.cfg = true := by rw [Instr.inRevision, hr, hrev, Option.all_some, beq_self_eq_true]
  rw [exec_row hi hw hin, hop]

/-- Settles O35: each is a row of REV A, well-formed whatever its operands. -/
theorem registerCommandsOfRevA : Obligations.RegisterCommandsOfRevA := by
  unfold Obligations.RegisterCommandsOfRevA
  intro s gates p hrev
  have hgates : (Instr.driverOutputControl gates p).command = some (.driverOutputControl,
      some [gates.extractLsb' 0 8, gates.extractLsb' 8 8, p]) := by simp [Instr.command, rowBytes_toNat]
  exact ⟨exec_row_of_rev hrev hgates rfl rfl rfl, exec_row_of_rev hrev rfl rfl rfl rfl,
    exec_row_of_rev hrev rfl rfl rfl rfl, exec_row_of_rev hrev rfl rfl rfl rfl, exec_row_of_rev hrev rfl rfl rfl rfl,
    exec_row_of_rev hrev rfl rfl rfl rfl, exec_row_of_rev hrev rfl rfl rfl rfl, exec_row_of_rev hrev rfl rfl rfl rfl⟩

/-- Settles O36: each is a row of REV A; a row field is sent as its two halves, the low one first. -/
theorem addressCommandsOfRevA : Obligations.AddressCommandsOfRevA := by
  unfold Obligations.AddressCommandsOfRevA
  intro s cs ce rs re hrev
  have hwindow : (Instr.setRamYWindow rs re).command = some (.setRamYWindow,
      some [rs.extractLsb' 0 8, rs.extractLsb' 8 8, re.extractLsb' 0 8, re.extractLsb' 8 8]) := by
    simp [Instr.command, rowBytes_toNat]
  have hcounter : (Instr.setRamYCounter rs).command = some (.setRamYCounter,
      some [rs.extractLsb' 0 8, rs.extractLsb' 8 8]) := by simp [Instr.command, rowBytes_toNat]
  exact ⟨exec_row_of_rev hrev rfl rfl rfl rfl, exec_row_of_rev hrev hwindow rfl rfl rfl,
    exec_row_of_rev hrev rfl rfl rfl rfl, exec_row_of_rev hrev hcounter rfl rfl rfl⟩

/-- Settles O37: both are rows of REV A, well-formed for a payload of at least one byte. -/
theorem ramCommandsOfRevA : Obligations.RamCommandsOfRevA := by
  unfold Obligations.RamCommandsOfRevA
  intro s buf n hrev hbuf hn
  exact ⟨exec_row_of_rev hrev rfl rfl rfl (bne_iff_ne.2 hbuf), exec_row_of_rev hrev rfl rfl rfl (decide_eq_true hn)⟩

/-- Settles O38: each is a row of REV B, well-formed whatever its operands. -/
theorem registerCommandsOfRevB : Obligations.RegisterCommandsOfRevB := by
  unfold Obligations.RegisterCommandsOfRevB
  intro s gates p hrev
  have hgates : (Instr.driverOutputControlB gates p).command = some (.driverOutputControl,
      some [gates.extractLsb' 0 8, gates.extractLsb' 8 8, p]) := by simp [Instr.command, rowBytes_toNat]
  exact ⟨exec_row_of_rev hrev hgates rfl rfl rfl, exec_row_of_rev hrev rfl rfl rfl rfl,
    exec_row_of_rev hrev rfl rfl rfl rfl, exec_row_of_rev hrev rfl rfl rfl rfl, exec_row_of_rev hrev rfl rfl rfl rfl,
    exec_row_of_rev hrev rfl rfl rfl rfl, exec_row_of_rev hrev rfl rfl rfl rfl, exec_row_of_rev hrev rfl rfl rfl rfl⟩

/-- Settles O39: each is a row of REV B; a row field is sent as its two halves, the low one first. -/
theorem addressCommandsOfRevB : Obligations.AddressCommandsOfRevB := by
  unfold Obligations.AddressCommandsOfRevB
  intro s cs ce rs re hrev
  have hwindow : (Instr.setRamYWindowB rs re).command = some (.setRamYWindow,
      some [rs.extractLsb' 0 8, rs.extractLsb' 8 8, re.extractLsb' 0 8, re.extractLsb' 8 8]) := by
    simp [Instr.command, rowBytes_toNat]
  have hcounter : (Instr.setRamYCounterB rs).command = some (.setRamYCounter,
      some [rs.extractLsb' 0 8, rs.extractLsb' 8 8]) := by simp [Instr.command, rowBytes_toNat]
  exact ⟨exec_row_of_rev hrev rfl rfl rfl rfl, exec_row_of_rev hrev hwindow rfl rfl rfl,
    exec_row_of_rev hrev rfl rfl rfl rfl, exec_row_of_rev hrev hcounter rfl rfl rfl⟩

/-- Settles O40: both are rows of REV B, well-formed for a payload of at least one byte. -/
theorem ramCommandsOfRevB : Obligations.RamCommandsOfRevB := by
  unfold Obligations.RamCommandsOfRevB
  intro s buf n hrev hbuf hn
  exact ⟨exec_row_of_rev hrev rfl rfl rfl (bne_iff_ne.2 hbuf), exec_row_of_rev hrev rfl rfl rfl (decide_eq_true hn)⟩

/-- Settles O41: the waveform registers are rows of REV B, well-formed for a table of 1 to 56 bytes. -/
theorem lutCommandsOfRevB : Obligations.LutCommandsOfRevB := by
  unfold Obligations.LutCommandsOfRevB
  intro s table hrev hlo hhi
  have hw : (decide (1 ≤ table.length) && decide (table.length ≤ 56)) = true := by
    rw [decide_eq_true hlo, decide_eq_true hhi, Bool.and_self]
  exact ⟨exec_row_of_rev hrev rfl rfl rfl hw, exec_row_of_rev hrev rfl rfl rfl hw, exec_row_of_rev hrev rfl rfl rfl hw,
    exec_row_of_rev hrev rfl rfl rfl hw, exec_row_of_rev hrev rfl rfl rfl hw⟩

end Sys2Proof.Machine
end

section
/-!
PROOF. The frames of a trace (R88): a list of whole frames, reset pulses and wait events is read back frame by frame, and it may
follow any trace that can be read.
-/

namespace Sys2Proof.Machine

open Sys2Proof

/-- The event lists an operation may emit, with the frames in them: whole frames (R80), edges of the reset line (R103) and the
events of waits (R111, R112). -/
inductive Carries (c : Cfg) : List Frame → List Event → Prop
  | nil : Carries c [] []
  | frame (f : Frame) {fs : List Frame} {es : List Event} :
      Carries c fs es → Carries c (f :: fs) (frameEvents c.hasCs f.op f.payload ++ es)
  | rst (v : Level) {fs : List Frame} {es : List Event} : Carries c fs es → Carries c fs (.line .rst v :: es)
  | wait {e : Event} {fs : List Frame} {es : List Event} : e.isWait c → Carries c fs es → Carries c fs (e :: es)

theorem Carries.append {c : Cfg} {fs gs : List Frame} {a b : List Event} (ha : Carries c fs a) (hb : Carries c gs b) :
    Carries c (fs ++ gs) (a ++ b) := by
  induction ha with
  | nil => exact hb
  | frame f _ ih =>
    rw [List.append_assoc]
    exact .frame f ih
  | rst v _ ih => exact .rst v ih
  | wait hw _ ih => exact .wait hw ih

theorem Carries.seq (c : Cfg) (q : CommandSeq) : Carries c (seqFrames c q) (seqEvents c q) := by
  induction q with
  | nil => exact .nil
  | cons p q ih => exact .frame ⟨c.opcode p.1, p.2⟩ ih

/-- What an operation emits carries some frames. -/
theorem Emits.carries {c : Cfg} {es : List Event} (h : Emits c es) : ∃ fs, Carries c fs es := by
  induction h with
  | nil => exact ⟨[], .nil⟩
  | frame op p es _ ih =>
    obtain ⟨fs, hfs⟩ := ih
    exact ⟨⟨op, p⟩ :: fs, .frame ⟨op, p⟩ hfs⟩
  | pulse es _ ih =>
    obtain ⟨fs, hfs⟩ := ih
    exact ⟨fs, .rst _ (.wait (.inr rfl) (.rst _ (.wait (.inr rfl) hfs)))⟩
  | wait e es hw _ ih =>
    obtain ⟨fs, hfs⟩ := ih
    exact ⟨fs, .wait hw hfs⟩

/-! ### Reading one part of a trace -/

/-- A wait event is a poll or a sleep. -/
theorem Event.isWait_cases {c : Cfg} {e : Event} (he : e.isWait c) :
    (∃ v, e = .poll v ∧ c.hasBusy = true) ∨ ∃ ms, e = .sleep ms := by
  cases e with
  | poll v => exact .inl ⟨v, rfl, he.elim And.right nofun⟩
  | sleep ms => exact .inr ⟨ms, rfl⟩
  | line | bus => exact absurd he (by simp [Event.isWait, Event.isPoll, Event.isSleep])

/-- Between frames a reader passes over a wait event. -/
theorem readFrames_between_wait {c : Cfg} {e : Event} (he : e.isWait c) (es : List Event) :
    readFrames .between (e :: es) = readFrames .between es := by
  obtain ⟨v, rfl, -⟩ | ⟨ms, rfl⟩ := Event.isWait_cases he <;> rfl

/-- A wait event ends a frame whose opcode has come. -/
theorem readFrames_sent_wait {c : Cfg} {e : Event} (he : e.isWait c) (op : Byte) (es : List Event) :
    readFrames (.sent op) (e :: es) = (readFrames .between es).map (⟨op, none⟩ :: ·) := by
  obtain ⟨v, rfl, -⟩ | ⟨ms, rfl⟩ := Event.isWait_cases he <;> rfl

/-- A frame is read as its opcode and payload, its chip-select events passed over; without a payload the reader then waits for
one. -/
theorem readFrames_between_frame (b : Bool) (op : Byte) (p : Option (List Byte)) (es : List Event) :
    readFrames .between (frameEvents b op p ++ es) =
      match p with
      | none => readFrames (.sent op) es
      | some bytes => (readFrames .between es).map (⟨op, some bytes⟩ :: ·) := by
  cases b <;> cases p <;> rfl

/-- The low level of DC that a frame begins with ends the frame before it. -/
theorem readFrames_sent_frame (b : Bool) (op op' : Byte) (p : Option (List Byte)) (es : List Event) :
    readFrames (.sent op) (frameEvents b op' p ++ es) =
      (readFrames .between (frameEvents b op' p ++ es)).map (⟨op, none⟩ :: ·) := rfl

/-- A frame without a payload that a list of whole frames follows is complete. -/
theorem Carries.readFrames_sent {c : Cfg} {fs : List Frame} {es : List Event} (h : Carries c fs es) (op : Byte) :
    readFrames (.sent op) es = (readFrames .between es).map (⟨op, none⟩ :: ·) := by
  cases h with
  | nil => rfl
  | frame f _ => exact readFrames_sent_frame ..
  | rst v _ => rfl
  | wait hw _ => rw [readFrames_sent_wait hw, readFrames_between_wait hw]

/-- The frames carried are the frames read (R88). -/
theorem Carries.framesOf {c : Cfg} {fs : List Frame} {es : List Event} (h : Carries c fs es) : framesOf es = some fs := by
  unfold Machine.framesOf
  induction h with
  | nil => rfl
  | @frame f fs es hes ih =>
    obtain ⟨op, p⟩ := f
    rw [readFrames_between_frame]
    cases p with
    | none => rw [hes.readFrames_sent, ih, Option.map_some]
    | some bytes => simp only [ih, Option.map_some]
  | rst v _ ih => exact ih
  | wait hw _ ih => rw [readFrames_between_wait hw, ih]

/-- A list of events that a reader can go on with between frames and after an opcode may follow whatever it has read. -/
theorem readFrames_append_isSome {es : List Event} (hb : (readFrames .between es).isSome = true)
    (hs : ∀ op, (readFrames (.sent op) es).isSome = true) (p : Phase) (a : List Event)
    (ha : (readFrames p a).isSome = true) : (readFrames p (a ++ es)).isSome = true := by
  induction p, a using readFrames.induct
  all_goals simp_all [readFrames]

end Sys2Proof.Machine
end

section
/-!
PROOF. What every step keeps of the trace, the lines and the configuration (R31 to R33, R40, R88), and the port (R24 (a), R92,
R230).
-/

namespace Sys2Proof.Machine

open Sys2Proof

/-! ### The step at the port -/

theorem step_of_decode_error {s : State} {r : Request} {rest : List Request} {e : DecodeError} (hp : s.port = r :: rest)
    (hd : decode s.cfg r = .error e) : step s = .refused (.undecodable e) := by
  simp only [step, State.fetch, hp, hd]

theorem step_of_idle {s : State} (hp : s.port = []) : step s = .next s := by
  simp only [step, State.fetch, hp]

/-- Settles O4: the step fetches the call, runs its instruction and counts it. -/
theorem stepRunsDecodedInstruction : Obligations.StepRunsDecodedInstruction := by
  unfold Obligations.StepRunsDecodedInstruction
  intro s r rest i hp hd
  simp only [step, State.fetch, hp, hd]
  cases exec i { s with port := rest } <;> rfl

/-- Settles O5: nothing is fetched from an empty port, and a decoding error is the refusal. -/
theorem stepIdlesOrRefusesWithoutInstruction : Obligations.StepIdlesOrRefusesWithoutInstruction := by
  unfold Obligations.StepIdlesOrRefusesWithoutInstruction
  constructor
  case left =>
    intro s hp
    exact step_of_idle hp
  case right =>
    intro s r rest e hp hd
    exact step_of_decode_error hp hd

/-- Settles O6: the decoder, run on the seven words. -/
theorem sampleWordsDecode : Obligations.SampleWordsDecode := by
  unfold Obligations.SampleWordsDecode
  decide

/-- The decoder has an arm for the selectors 0x00 to 0x09 and 0x10 to 0x13 only (R90). -/
theorem decodeHost_of_unassigned {sel : Byte} (ops : List Byte)
    (hsel : (0x0A ≤ sel.toNat ∧ sel.toNat ≤ 0x0F) ∨ 0x14 ≤ sel.toNat) :
    decodeHost (sel :: ops) = .error (.unassignedSelector sel) := by
  simp only [decodeHost]
  split
  case h_15 => rfl
  all_goals omega

theorem modeOperand_of_le {m : Byte} (hm : 3 ≤ m.toNat) : modeOperand m = .error (.modeOutsideEnum m) := by
  simp only [modeOperand]
  split
  case h_4 => rfl
  all_goals omega

theorem orientOperand_of_le {o : Byte} (ho : 2 ≤ o.toNat) : orientOperand o = .error (.orientOutsideEnum o) := by
  simp only [orientOperand]
  split
  case h_3 => rfl
  all_goals omega

/-- Settles O7: each of the three calls is a decoding error that names the byte. -/
theorem unassignedSelectorsAndValuesRefused : Obligations.UnassignedSelectorsAndValuesRefused := by
  unfold Obligations.UnassignedSelectorsAndValuesRefused
  refine ⟨?selector, ?mode, ?orientation⟩
  case selector =>
    intro s rest sel ops hsel hp
    exact step_of_decode_error hp (decodeHost_of_unassigned ops hsel)
  case mode =>
    intro s rest m hm hp
    exact step_of_decode_error hp (modeOperand_of_le hm)
  case orientation =>
    intro s rest o ho hp
    exact step_of_decode_error hp (orientOperand_of_le ho)

/-! ### What a step emits -/

/-- Up to the port and the position, which are the step's own, a step is the closed form of what its instruction emits. -/
theorem step_emits {s t : State} (h : step s = .next t) : EmitsTo s { t with pos := s.pos, port := s.port } := by
  rcases step_cases h with ⟨-, rfl⟩ | ⟨r, rest, i, u, -, -, hexec, rfl⟩
  case inl => exact .refl _
  case inr =>
    obtain ⟨es, hes, hagree⟩ := exec_emits i _ u hexec
    exact ⟨es, hes, hagree.dc, hagree.cs, hagree.rst, hagree.trace, rfl, hagree.cfg, rfl, hagree.busyIn, hagree.polls⟩

/-- Settles O49: the closed form appends its events and has the same configuration. -/
theorem stepAppendsToTraceAndKeepsConfiguration : Obligations.StepAppendsToTraceAndKeepsConfiguration := by
  unfold Obligations.StepAppendsToTraceAndKeepsConfiguration
  intro s t h
  obtain ⟨es, -, hagree⟩ := step_emits h
  exact ⟨⟨es, hagree.trace⟩, hagree.cfg⟩

/-- The latches of the closed form are those of the longer trace (R31). -/
theorem State.LatchesMatchTrace.after {s : State} (h : s.LatchesMatchTrace) (es : List Event) :
    (s.after es).LatchesMatchTrace := by
  obtain ⟨hdc, hcs, hrst⟩ := h
  refine ⟨?_, ?_, ?_⟩
  case refine_1 => rw [State.after_dc, State.after_trace, lastDrive_append, hdc]
  case refine_2 => rw [State.after_cs, State.after_trace, lastDrive_append, hcs]
  case refine_3 =>
    rw [State.after_rst, State.after_trace, lastDrive_append, hrst]
    cases lastDrive .rst es <;> rfl

/-- Settles O46: a step's latches and trace are those of the closed form. -/
theorem stepKeepsLatchesMatchingTrace : Obligations.StepKeepsLatchesMatchingTrace := by
  unfold Obligations.StepKeepsLatchesMatchingTrace
  intro s t hs h
  obtain ⟨es, -, hagree⟩ := step_emits h
  obtain ⟨hdc, hcs, hrst⟩ := hs.after es
  exact ⟨hagree.dc.trans (hdc.trans (congrArg _ hagree.trace.symm)),
    hagree.cs.trans (hcs.trans (congrArg _ hagree.trace.symm)),
    hagree.rst.trans (hrst.trans (congrArg (fun tr => (lastDrive .rst tr).getD .high) hagree.trace.symm))⟩

/-- Settles O47: what a step emits can be read on from wherever the trace so far ends. -/
theorem stepKeepsTraceDecodable : Obligations.StepKeepsTraceDecodable := by
  unfold Obligations.StepKeepsTraceDecodable
  intro s t hs h
  obtain ⟨es, hes, hagree⟩ := step_emits h
  obtain ⟨fs, hfs⟩ := hes.carries
  have hbetween : readFrames .between es = some fs := hfs.framesOf
  have htrace : t.trace = s.trace ++ es := hagree.trace
  rw [State.TraceDecodes, htrace]
  refine readFrames_append_isSome ?_ (fun op => ?_) .between s.trace hs
  · rw [hbetween, Option.isSome_some]
  · rw [hfs.readFrames_sent, hbetween, Option.map_some, Option.isSome_some]

/-! ### Lines that do not exist -/

/-- Without a chip-select line no emitted event drives it (R31). -/
theorem Emits.drives_cs_none {c : Cfg} {es : List Event} (h : Emits c es) (hc : c.hasCs = false) :
    ∀ e ∈ es, e.drives .cs = none := by
  induction h with
  | nil => simp
  | frame op p es _ ih =>
    rw [hc]
    cases p <;> simpa [frameEvents, transaction, Event.drives] using ih
  | pulse es _ ih => simpa [pulseEvents, Event.drives] using ih
  | wait e es hw _ ih => simpa [drives_none_of_isWait .cs c e hw] using ih

/-- Without a busy line no emitted event is a poll (R32). -/
theorem Emits.not_poll {c : Cfg} {es : List Event} (h : Emits c es) (hc : c.hasBusy = false) :
    ∀ e ∈ es, e.isPoll = false := by
  induction h with
  | nil => simp
  | frame op p es _ ih =>
    intro e he
    rcases List.mem_append.1 he with hf | hes
    · exact frameEvents_no_poll _ _ _ e hf
    · exact ih e hes
  | pulse es _ ih => simpa [pulseEvents, Event.isPoll] using ih
  | wait e es hw _ ih =>
    have hpoll : e.isPoll = false := by
      obtain ⟨v, rfl, hb⟩ | ⟨ms, rfl⟩ := Event.isWait_cases hw
      · exact absurd (hc.symm.trans hb) nofun
      · rfl
    simpa [hpoll] using ih

/-- Settles O48: on such a machine no emitted event is of the absent line. -/
theorem stepKeepsAbsentLinesSilent : Obligations.StepKeepsAbsentLinesSilent := by
  unfold Obligations.StepKeepsAbsentLinesSilent
  intro s t ⟨hcs, hbusy⟩ h
  obtain ⟨es, hes, hagree⟩ := step_emits h
  have htrace : t.trace = s.trace ++ es := hagree.trace
  have hcfg : t.cfg = s.cfg := hagree.cfg
  have hlatch : t.cs = (lastDrive .cs es).or s.cs := hagree.cs
  rw [State.AbsentLinesSilent, hcfg, htrace, hlatch]
  constructor
  case left =>
    intro hc
    obtain ⟨hnone, hsilent⟩ := hcs hc
    have hdrive := hes.drives_cs_none hc
    refine ⟨by rw [lastDrive_none_of _ _ hdrive, hnone, Option.none_or], fun v hv => ?_⟩
    rcases List.mem_append.1 hv with hold | hnew
    · exact hsilent v hold
    · exact absurd (hdrive _ hnew) nofun
  case right =>
    intro hb v hv
    rcases List.mem_append.1 hv with hold | hnew
    · exact hbusy hb v hold
    · exact absurd (hes.not_poll hb _ hnew) nofun

/-! ### Construction -/

/-- Settles O1: the record of the construction, field by field. -/
theorem constructionLeavesResetValues : Obligations.ConstructionLeavesResetValues := by
  unfold Obligations.ConstructionLeavesResetValues
  intro c
  exact ⟨rfl, rfl, rfl, rfl, rfl, rfl, rfl, rfl, rfl, rfl, rfl, rfl⟩

/-- Settles O2: after construction POWER is Off, INITED and PLATCH are 0, the trace is empty and no latch is written. -/
theorem constructionMeetsInvariants : Obligations.ConstructionMeetsInvariants := by
  unfold Obligations.ConstructionMeetsInvariants
  intro c
  refine ⟨?flags, ⟨rfl, rfl, rfl⟩, rfl, ?lines⟩
  case flags => exact ⟨fun _ => rfl, fun _ => rfl, nofun, nofun, rfl⟩
  case lines => exact ⟨fun _ => ⟨rfl, fun _ => List.not_mem_nil⟩, fun _ _ => List.not_mem_nil⟩

/-- Settles O3: the default is the configuration REV A's rows are read under, and its intervals are written out. -/
theorem defaultConfigurationIsWellFormed : Obligations.DefaultConfigurationIsWellFormed := by
  unfold Obligations.DefaultConfigurationIsWellFormed
  exact ⟨Cfg.ofRevision_wellFormed .a, by decide⟩

end Sys2Proof.Machine
end

section
/-!
PROOF. Every instruction in one form: the fields of S it writes, and what it sends the controller. The next state is the closed
form `State.after` of events that are, polls and sleeps left out, exactly what is sent. The statements about flags, bindings and
time-outs are read off the two tables `State.marked` and `State.sent`.
-/

namespace Sys2Proof.Machine

open Sys2Proof

/-! ### What is sent, polls and sleeps left out -/

@[simp] theorem commandEvents_nil : commandEvents [] = [] := rfl

@[simp] theorem commandEvents_append (a b : List Event) : commandEvents (a ++ b) = commandEvents a ++ commandEvents b :=
  List.filter_append ..

theorem frameEvents_no_sleep (b : Bool) (op : Byte) (p : Option (List Byte)) :
    ∀ e ∈ frameEvents b op p, e.isSleep = false := by
  cases b <;> cases p <;> simp [frameEvents, transaction, Event.isSleep]

@[simp] theorem commandEvents_frameEvents (b : Bool) (op : Byte) (p : Option (List Byte)) :
    commandEvents (frameEvents b op p) = frameEvents b op p :=
  List.filter_eq_self.2 fun e he => by simp [frameEvents_no_poll b op p e he, frameEvents_no_sleep b op p e he]

@[simp] theorem commandEvents_seqEvents (c : Cfg) (q : CommandSeq) : commandEvents (seqEvents c q) = seqEvents c q := by
  simp only [commandEvents, seqEvents, List.filter_flatMap]
  exact List.flatMap_congr fun p _ => commandEvents_frameEvents ..

theorem commandEvents_eq_nil_of_isWait {c : Cfg} {w : List Event} (h : ∀ e ∈ w, e.isWait c) : commandEvents w = [] :=
  List.filter_eq_nil_iff.2 fun e he => by rcases h e he with ⟨hp, -⟩ | hs <;> simp [*]

/-- Of frames that are sent or not, and a wait after them, the frames are sent. -/
theorem commandEvents_frames_then_wait {c : Cfg} {w : List Event} (hw : ∀ e ∈ w, e.isWait c) (p : Prop) [Decidable p]
    (q : CommandSeq) :
    commandEvents ((if p then seqEvents c q else []) ++ w) = if p then seqEvents c q else [] := by
  rw [commandEvents_append, commandEvents_eq_nil_of_isWait hw, List.append_nil, apply_ite commandEvents,
    commandEvents_seqEvents, commandEvents_nil]

/-- The two edges of the reset line in a reset pulse (R103). -/
def pulseLines : List Event :=
  [.line .rst .low, .line .rst .high]

@[simp] theorem commandEvents_pulseEvents (c : Cfg) : commandEvents (pulseEvents c) = pulseLines := rfl

/-- Polls and sleeps drive no line, so the latches are left by what is sent. -/
theorem lastDrive_commandEvents (l : Line) (es : List Event) : lastDrive l (commandEvents es) = lastDrive l es := by
  induction es with
  | nil => rfl
  | cons e es ih =>
    cases e
    case line | bus =>
      change lastDrive l (_ :: commandEvents es) = _
      rw [lastDrive_cons, lastDrive_cons, ih]
    case poll | sleep =>
      change lastDrive l (commandEvents es) = _
      rw [lastDrive_cons, ih]
      exact Option.or_none.symm

/-- `t` is `m` after events that are `cmds` once polls and sleeps are left out. -/
def Sends (m : State) (cmds : List Event) (t : State) : Prop :=
  ∃ es, t = m.after es ∧ commandEvents es = cmds

theorem Sends.refl (s : State) : Sends s [] s :=
  ⟨[], (State.after_nil s).symm, rfl⟩

theorem Sends.trans {m t u : State} {a b : List Event} (h : Sends m a t) (k : Sends t b u) : Sends m (a ++ b) u := by
  obtain ⟨es, rfl, rfl⟩ := h
  obtain ⟨es', rfl, rfl⟩ := k
  exact ⟨es ++ es', (State.after_append ..).symm, commandEvents_append ..⟩

/-- A write of fields that the closed form neither reads nor writes may be counted before the events. -/
theorem Sends.mark {m t : State} {cmds : List Event} (h : Sends m cmds t) (f : State → State)
    (hf : ∀ es, f (m.after es) = (f m).after es) : Sends (f m) cmds (f t) := by
  obtain ⟨es, rfl, rfl⟩ := h
  exact ⟨es, hf es, rfl⟩

theorem sends_frame (s : State) (op : Byte) (p : Option (List Byte)) :
    Sends s (frameEvents s.cfg.hasCs op p) (s.after (frameEvents s.cfg.hasCs op p)) :=
  ⟨_, rfl, commandEvents_frameEvents ..⟩

theorem sends_seq (s : State) (q : CommandSeq) : Sends s (seqEvents s.cfg q) (s.after (seqEvents s.cfg q)) :=
  ⟨_, rfl, commandEvents_seqEvents ..⟩

/-- A wait sends nothing (R249). -/
theorem sends_waitIdle (s : State) (t : Nat) : Sends s [] (s.waitIdle t) := by
  obtain ⟨w, hw, hm⟩ := State.waitIdle_keeps s t
  exact ⟨w, hw, commandEvents_eq_nil_of_isWait hm⟩

/-! ### The shared operations -/

/-- POWER and PLATCH after PWROFF (R114). -/
def State.markPoweredOff (s : State) : State :=
  { s with power := .off, platch := false }

/-- The frames of PWROFF, only if On (R114). -/
def State.powerOffSends (s : State) : List Event :=
  if s.power = .on then seqEvents s.cfg (powerSeq s.cfg.ducPoff) else []

theorem sends_powerOff (s : State) : Sends s.markPoweredOff s.powerOffSends s.powerOff := by
  obtain ⟨w, hw, hm⟩ := State.powerOff_keeps s
  exact ⟨_, hw, commandEvents_frames_then_wait hm ..⟩

/-- The frames of PWRON, only if Off (R113). -/
def State.powerOnSends (s : State) : List Event :=
  if s.power = .off then seqEvents s.cfg (powerSeq s.cfg.ducPon) else []

theorem sends_powerOn (s : State) : Sends { s with power := .on } s.powerOnSends s.powerOn := by
  obtain ⟨w, hw, hm⟩ := State.powerOn_keeps s
  exact ⟨_, hw, commandEvents_frames_then_wait hm ..⟩

/-- The fields of S after RUNINIT (R142). -/
def State.markRunInit (s : State) : State :=
  { s with
    hib := false
    inited := true
    initMode := s.mode
    power := .on
    platch := if s.mode = .part then true else if s.needsPulse then false else s.platch }

/-- What RUNINIT sends: the pulse if needed, the mode's sequence, the power-on frames unless On already (R142). -/
def State.runInitSends (s : State) : List Event :=
  (if s.needsPulse then pulseLines else []) ++ seqEvents s.cfg (s.cfg.initSeq.get s.mode)
    ++ if s.needsPulse || s.power == .off then seqEvents s.cfg (powerSeq s.cfg.ducPon) else []

theorem sends_runInit (s : State) : Sends s.markRunInit s.runInitSends s.runInit := by
  obtain ⟨w, hw, hm⟩ := State.runInit_keeps s
  refine ⟨_, hw, ?_⟩
  simp only [commandEvents_append, commandEvents_eq_nil_of_isWait hm, apply_ite commandEvents, commandEvents_pulseEvents,
    commandEvents_seqEvents, commandEvents_nil, List.append_nil, State.runInitSends]

theorem isInitialized_iff (s : State) :
    s.isInitialized = true ↔ s.inited = true ∧ s.initMode = s.mode ∧ s.hib = false := by
  simp [State.isInitialized, and_assoc]

/-- The fields of S after ENSUREINIT (R141). -/
def State.markEnsured (s : State) : State :=
  if s.isInitialized then s else s.markRunInit

/-- What ENSUREINIT sends (R141). -/
def State.ensureInitSends (s : State) : List Event :=
  if s.isInitialized then [] else s.runInitSends

theorem sends_ensureInit (s : State) : Sends s.markEnsured s.ensureInitSends s.ensureInit := by
  unfold State.markEnsured State.ensureInitSends State.ensureInit
  split
  case isTrue => exact .refl s
  case isFalse => exact sends_runInit s

/-- What SETFRAME sends: the initialization where it is due, then the frames of WRITEFRAME (R163). -/
def State.setFrameSends (s : State) (buf : List Byte) (x y w h : Int) : List Event :=
  s.ensureInitSends ++ seqEvents s.cfg (writeFrameSeq s.cfg s.mode s.orient buf (calcCoords x y w h))

theorem sends_setFrame (s : State) (buf : List Byte) (x y w h : Int) :
    Sends s.markEnsured (s.setFrameSends buf x y w h) (s.setFrame buf x y w h) := by
  obtain ⟨hcfg, -⟩ := State.ensureInit_keeps s
  rw [State.setFrame_eq_after, ← hcfg]
  rw [State.setFrameSends, ← hcfg]
  exact (sends_ensureInit s).trans (sends_seq ..)

/-- The fields of S after ACTIVATE (R145). -/
def State.markActivated (s : State) : State :=
  if s.mode = .fast then s.markPoweredOff else s

/-- What ACTIVATE sends: its frames, in Fast mode those of PWROFF too (R145). -/
def State.activateSends (s : State) : List Event :=
  seqEvents s.cfg (activateSeq (s.cfg.ducDisplay.get s.mode)) ++ if s.mode = .fast then s.powerOffSends else []

theorem sends_activate (s : State) : Sends s.markActivated s.activateSends s.activate := by
  obtain ⟨w1, w2, hact, hm1, hm2⟩ := State.activate_keeps s
  have hmark : ∀ es, { s.after es with
      power := if s.mode = .fast then .off else s.power
      platch := if s.mode = .fast then false else s.platch } = s.markActivated.after es := by
    intro es
    unfold State.markActivated
    split <;> rfl
  refine ⟨_, hact.trans (hmark _), ?_⟩
  simp only [commandEvents_append, commandEvents_eq_nil_of_isWait hm1, commandEvents_eq_nil_of_isWait hm2,
    apply_ite commandEvents, commandEvents_seqEvents, commandEvents_nil, List.append_nil, ite_and,
    State.activateSends, State.powerOffSends]

/-- ACTIVATE writes the same fields after any events. -/
theorem State.markActivated_after (s : State) (es : List Event) : (s.after es).markActivated = s.markActivated.after es := by
  unfold State.markActivated
  rw [State.after_mode]
  split <;> rfl

/-- What HIBERNATE sends: the power-off frames if On, the deep-sleep frame unless RST is held low (R116). -/
def State.hibernateSends (s : State) : List Event :=
  s.powerOffSends ++ if s.rst = .high then seqEvents s.cfg [(.deepSleepMode, some [s.cfg.deepSleepEnter])] else []

theorem sends_hibernate (s : State) : Sends s.markPoweredOff.markHibernating s.hibernateSends s.hibernate := by
  obtain ⟨w, hw, hm⟩ := State.hibernate_keeps s
  refine ⟨_, hw, ?_⟩
  simp only [commandEvents_append, commandEvents_eq_nil_of_isWait hm, apply_ite commandEvents, commandEvents_seqEvents,
    commandEvents_nil, List.append_nil, State.hibernateSends, State.powerOffSends]

theorem sends_resetPulse (s : State) : Sends s.clearTracking pulseLines s.resetPulse :=
  ⟨pulseEvents s.cfg, State.resetPulse_eq s, commandEvents_pulseEvents s.cfg⟩

/-- The fields of S after SETMODE (R161). -/
def State.markSetmode (s : State) (m : RefreshMode) : State :=
  if m = s.mode then s else { ({ s with mode := m } : State).markPoweredOff with inited := false }

/-- What SETMODE sends: the power-off frames if the mode changes and POWER is On (R161). -/
def State.setmodeSends (s : State) (m : RefreshMode) : List Event :=
  if m = s.mode then [] else s.powerOffSends

theorem exec_setmode_of_eq {m : RefreshMode} {s : State} (hm : m = s.mode) : exec (.setmode m) s = .next s :=
  if_pos hm

theorem exec_setmode_of_ne {m : RefreshMode} {s : State} (hm : m ≠ s.mode) :
    exec (.setmode m) s = .next { ({ s with mode := m } : State).powerOff with inited := false } :=
  if_neg hm

theorem sends_setmode {m : RefreshMode} {s t : State} (h : exec (.setmode m) s = .next t) :
    Sends (s.markSetmode m) (s.setmodeSends m) t := by
  unfold State.markSetmode State.setmodeSends
  by_cases hm : m = s.mode
  case pos =>
    rw [exec_setmode_of_eq hm] at h
    obtain rfl := Host.Outcome.next.inj h
    rw [if_pos hm, if_pos hm]
    exact .refl s
  case neg =>
    rw [exec_setmode_of_ne hm] at h
    obtain rfl := Host.Outcome.next.inj h
    rw [if_neg hm, if_neg hm]
    exact (sends_powerOff { s with mode := m }).mark (fun u => { u with inited := false }) fun _ => rfl

/-- The fields of S after REFRESH (R166). -/
def State.markRefresh (s : State) (x y w h : Int) : State :=
  if s.first then ({ s with first := false } : State).markActivated
  else
    match refreshRect x y w h with
    | none => s
    | some _ => s.markActivated

/-- What REFRESH sends: on a later call the window of the expanded rectangle, then what DISPLAY sends (R166). -/
def State.refreshSends (s : State) (x y w h : Int) : List Event :=
  if s.first then s.activateSends
  else
    match refreshRect x y w h with
    | none => []
    | some r => seqEvents s.cfg (ramAreaSeq s.cfg s.orient r.window) ++ s.activateSends

theorem exec_refresh_of_first {s : State} (hfirst : s.first = true) (x y w h : Int) :
    exec (.refresh x y w h) s = .next ({ s with first := false } : State).activate :=
  if_pos hfirst

theorem exec_refresh_of_none {s : State} {x y w h : Int} (hfirst : s.first = false) (hr : refreshRect x y w h = none) :
    exec (.refresh x y w h) s = .next s := by
  simp only [exec, execRefresh, hfirst, hr, Bool.false_eq_true, if_false]

theorem exec_refresh_of_some {s : State} {x y w h : Int} {r : Rect} (hfirst : s.first = false)
    (hr : refreshRect x y w h = some r) : exec (.refresh x y w h) s = .next (s.setRamArea r.window).activate := by
  simp only [exec, execRefresh, hfirst, hr, Bool.false_eq_true, if_false]

theorem sends_refresh {x y w h : Int} {s t : State} (ht : exec (.refresh x y w h) s = .next t) :
    Sends (s.markRefresh x y w h) (s.refreshSends x y w h) t := by
  unfold State.markRefresh State.refreshSends
  cases hfirst : s.first with
  | true =>
    rw [exec_refresh_of_first hfirst] at ht
    obtain rfl := Host.Outcome.next.inj ht
    exact sends_activate { s with first := false }
  | false =>
    cases hr : refreshRect x y w h with
    | none =>
      rw [exec_refresh_of_none hfirst hr] at ht
      obtain rfl := Host.Outcome.next.inj ht
      exact .refl s
    | some r =>
      rw [exec_refresh_of_some hfirst hr, State.setRamArea_eq_after] at ht
      obtain rfl := Host.Outcome.next.inj ht
      exact ((sends_seq s _).mark _ s.markActivated_after).trans (sends_activate (s.after _))

/-! ### Every instruction -/

/-- The fields of S after an instruction that completes (R38, R160 to R168). -/
def State.marked (s : State) : Instr → State
  | .init => s.markRunInit
  | .setmode m => s.markSetmode m
  | .setorient o => { s with orient := o }
  | .setframe .. | .clear .. => s.markEnsured
  | .display => s.markActivated
  | .refresh x y w h => s.markRefresh x y w h
  | .hibernate | .sleep => s.markPoweredOff.markHibernating
  | .reset => s.clearTracking
  | .pwron => { s with power := .on }
  | .pwroff => s.markPoweredOff
  | _ => s

/-- What an instruction that completes sends the controller, polls and sleeps left out. -/
def State.sent (s : State) : Instr → List Event
  | .init => s.runInitSends
  | .setmode m => s.setmodeSends m
  | .setframe buf x y w h => s.setFrameSends buf x y w h
  | .clear fill =>
    s.setFrameSends (List.replicate (Config.width * Config.height / 8).toNat fill) 0 0 Config.width Config.height
  | .display => s.activateSends
  | .refresh x y w h => s.refreshSends x y w h
  | .hibernate | .sleep => s.hibernateSends
  | .reset => pulseLines
  | .pwron => s.powerOnSends
  | .pwroff => s.powerOffSends
  | .sendcmd op p => frameEvents s.cfg.hasCs op p
  | i => (i.command.map (fun q => frameEvents s.cfg.hasCs (s.cfg.opcode q.1) q.2)).getD []

theorem State.marked_row {i : Instr} {n : Command} {p : Option (List Byte)} (hi : i.command = some (n, p)) (s : State) :
    s.marked i = s := by
  cases i <;> cases hi <;> rfl

theorem State.sent_row {i : Instr} {n : Command} {p : Option (List Byte)} (hi : i.command = some (n, p)) (s : State) :
    s.sent i = frameEvents s.cfg.hasCs (s.cfg.opcode n) p := by
  cases i <;> cases hi <;> rfl

theorem exec_setframe_cases {buf : List Byte} {x y w h : Int} {s t : State} (ht : exec (.setframe buf x y w h) s = .next t) :
    buf ≠ [] ∧ frameDomain x y w h = true ∧ t = s.setFrame buf x y w h := by
  simp only [exec, execSetframe] at ht
  split at ht
  case isTrue => cases ht
  case isFalse hbuf =>
    split at ht
    case isTrue hdom =>
      cases ht
      exact ⟨hbuf, hdom, rfl⟩
    case isFalse => cases ht

theorem exec_waitidle_cases {T : Int} {s t : State} (ht : exec (.waitidle T) s = .next t) :
    0 ≤ T ∧ t = s.waitIdle T.toNat := by
  simp only [exec, execWaitidle] at ht
  split at ht
  case isTrue hT =>
    cases ht
    exact ⟨hT, rfl⟩
  case isFalse => cases ht

theorem exec_pwron_cases {s t : State} (ht : exec .pwron s = .next t) : s.hib = false ∧ t = s.powerOn := by
  simp only [exec, execPwron] at ht
  split at ht
  case isTrue => cases ht
  case isFalse hhib =>
    cases ht
    exact ⟨by simpa using hhib, rfl⟩

theorem exec_sendcmd_cases {op : Byte} {p : Option (List Byte)} {s t : State} (ht : exec (.sendcmd op p) s = .next t) :
    payloadPresent p = true ∧ t = s.after (frameEvents s.cfg.hasCs op p) := by
  simp only [exec, execSendcmd] at ht
  split at ht
  case isTrue hp =>
    cases ht
    exact ⟨hp, State.sendCmd_eq_after ..⟩
  case isFalse => cases ht

/-- What CLEAR is, from every state (R167). -/
theorem exec_clear (fill : Byte) (s : State) :
    exec (.clear fill) s =
      .next (s.setFrame (List.replicate (Config.width * Config.height / 8).toNat fill) 0 0 Config.width Config.height) := rfl

/-- Whatever instruction completes, its next state is the fields it writes and the events it sends, with waits among them. -/
theorem exec_sends {i : Instr} {s t : State} (h : exec i s = .next t) : Sends (s.marked i) (s.sent i) t := by
  induction i using Instr.row_or_host
  case row i n p hi =>
    obtain ⟨-, -, rfl⟩ := exec_row_cases hi h
    rw [State.marked_row hi, State.sent_row hi]
    exact sends_frame ..
  case setmode m => exact sends_setmode h
  case refresh x y w h' => exact sends_refresh h
  case setframe buf x y w h' =>
    obtain ⟨-, -, rfl⟩ := exec_setframe_cases h
    exact sends_setFrame ..
  case waitidle T =>
    obtain ⟨-, rfl⟩ := exec_waitidle_cases h
    exact sends_waitIdle ..
  case pwron =>
    obtain ⟨-, rfl⟩ := exec_pwron_cases h
    exact sends_powerOn s
  case sendcmd op p =>
    obtain ⟨-, rfl⟩ := exec_sendcmd_cases h
    exact sends_frame ..
  case clear fill =>
    rw [exec_clear] at h
    exact Host.Outcome.next.inj h ▸ sends_setFrame ..
  all_goals cases h
  case init => exact sends_runInit s
  case setorient => exact .refl _
  case display => exact sends_activate s
  case hibernate => exact sends_hibernate s
  case sleep => 
    have hsleep := (sends_hibernate s).trans (sends_waitIdle s.hibernate s.cfg.tSleepFinal)
    rwa [List.append_nil] at hsleep
  case reset => exact sends_resetPulse s
  case pwroff => exact sends_powerOff s

end Sys2Proof.Machine
end

section
/-!
PROOF. Statements over all instructions: which complete (R11, R210), and what the fields an instruction writes and the events it sends
say of the invariants (R34), of the bindings and flags (R23, R25, R30, R38), of the driver's states (R169) and of time-outs
(R249).
-/

namespace Sys2Proof.Machine

open Sys2Proof

/-! ### Which instructions complete -/

/-- SETFRAME of a non-empty buffer on an admitted rectangle completes from every state (R163). -/
theorem exec_setframe_of_frameDomain {buf : List Byte} {x y w h : Int} (hbuf : buf ≠ []) (hdom : frameDomain x y w h = true)
    (s : State) : exec (.setframe buf x y w h) s = .next (s.setFrame buf x y w h) := by
  simp only [exec, execSetframe, if_neg hbuf, if_pos hdom]

theorem exec_pwron_of_not_hib {s : State} (hhib : s.hib = false) : exec .pwron s = .next s.powerOn := by
  simp only [exec, execPwron, hhib, Bool.false_eq_true, if_false]

theorem exec_pwron_of_hib {s : State} (hhib : s.hib = true) : exec .pwron s = .refused .powerOnWhileHibernating := by
  simp only [exec, execPwron, hhib, if_true]

/-- What completes lies in the domain, belongs to the revision, and is no PWRON while hibernating. -/
theorem admitted_of_exec {i : Instr} {s t : State} (h : exec i s = .next t) : Admitted i s := by
  induction i using Instr.row_or_host
  case row i n p hi =>
    obtain ⟨hw, hr, -⟩ := exec_row_cases hi h
    exact ⟨hw, hr, by rintro rfl; cases hi⟩
  case setframe buf x y w h' =>
    obtain ⟨hbuf, hdom, -⟩ := exec_setframe_cases h
    exact ⟨Bool.and_eq_true_iff.2 ⟨bne_iff_ne.2 hbuf, hdom⟩, rfl, nofun⟩
  case waitidle T =>
    obtain ⟨hT, -⟩ := exec_waitidle_cases h
    exact ⟨decide_eq_true hT, rfl, nofun⟩
  case pwron => exact ⟨rfl, rfl, fun _ => (exec_pwron_cases h).1⟩
  case sendcmd op p => exact ⟨(exec_sendcmd_cases h).1, rfl, nofun⟩
  all_goals exact ⟨rfl, rfl, nofun⟩

theorem exec_of_admitted {i : Instr} {s : State} (h : Admitted i s) : ∃ t, exec i s = .next t := by
  obtain ⟨hw, hr, hpwron⟩ := h
  induction i using Instr.row_or_host
  case row i n p hi => exact ⟨_, exec_row hi hw hr⟩
  case setframe buf x y w h' =>
    obtain ⟨hbuf, hdom⟩ := Bool.and_eq_true_iff.1 hw
    exact ⟨_, exec_setframe_of_frameDomain (bne_iff_ne.1 hbuf) hdom s⟩
  case setmode m =>
    by_cases hm : m = s.mode
    · exact ⟨_, exec_setmode_of_eq hm⟩
    · exact ⟨_, exec_setmode_of_ne hm⟩
  case refresh x y w h' =>
    cases hfirst : s.first with
    | true => exact ⟨_, exec_refresh_of_first hfirst ..⟩
    | false =>
      cases hrect : refreshRect x y w h' with
      | none => exact ⟨_, exec_refresh_of_none hfirst hrect⟩
      | some r => exact ⟨_, exec_refresh_of_some hfirst hrect⟩
  case waitidle T => exact ⟨_, if_pos (of_decide_eq_true hw)⟩
  case pwron => exact ⟨_, exec_pwron_of_not_hib (hpwron rfl)⟩
  case sendcmd op p => exact ⟨_, exec_sendcmd_of_payloadPresent op p s hw⟩
  case clear fill => exact ⟨_, exec_clear fill s⟩
  all_goals exact ⟨_, rfl⟩

/-- Settles O44: the two directions, one arm of `exec` at a time. -/
theorem completesExactlyWhereAdmitted : Obligations.CompletesExactlyWhereAdmitted := by
  unfold Obligations.CompletesExactlyWhereAdmitted
  intro i s
  exact ⟨fun ⟨_, h⟩ => admitted_of_exec h, exec_of_admitted⟩

/-! ### The invariants of S -/

/-- The reset line is high after an operation that found it so: a pulse ends with it high, nothing else drives it (R34). -/
theorem Emits.lastDrive_rst {c : Cfg} {es : List Event} (h : Emits c es) : (lastDrive .rst es).getD .high = .high := by
  induction h with
  | nil => rfl
  | frame op p es _ ih =>
    rw [lastDrive_append, lastDrive_rst_frameEvents, Option.or_none]
    exact ih
  | pulse es _ ih =>
    rw [lastDrive_append]
    cases hlast : lastDrive .rst es with
    | none => rfl
    | some v => rwa [hlast] at ih
  | wait e es hw _ ih =>
    rw [lastDrive_cons, drives_none_of_isWait _ _ _ hw, Option.or_none]
    exact ih

theorem exec_rst_high {i : Instr} {s t : State} (h : exec i s = .next t) (hs : s.rst = .high) : t.rst = .high := by
  obtain ⟨es, hes, hagree⟩ := exec_emits i s t h
  rw [hagree.rst, State.after_rst, hs, hes.lastDrive_rst]

theorem State.Inv.markPoweredOff {s : State} (h : s.Inv) : s.markPoweredOff.Inv := by
  obtain ⟨-, hinited, -, hmode, hrst⟩ := h
  exact ⟨fun _ => rfl, hinited, nofun, hmode, hrst⟩

theorem State.Inv.markRunInit {s : State} (h : s.Inv) : s.markRunInit.Inv := by
  obtain ⟨-, -, hlatch, -, hrst⟩ := h
  refine ⟨nofun, nofun, fun hp => ⟨rfl, rfl, ?_⟩, fun _ => rfl, hrst⟩
  have hpart : s.mode = .part := by
    by_contra hne
    simp only [State.markRunInit, if_neg hne] at hp
    split at hp
    · cases hp
    · obtain ⟨-, -, -, hpart⟩ := hlatch hp
      exact hne hpart
  exact ⟨hpart, hpart⟩

theorem State.Inv.markEnsured {s : State} (h : s.Inv) : s.markEnsured.Inv := by
  unfold State.markEnsured
  split
  · exact h
  · exact h.markRunInit

theorem State.Inv.markActivated {s : State} (h : s.Inv) : s.markActivated.Inv := by
  unfold State.markActivated
  split
  · exact h.markPoweredOff
  · exact h

theorem State.Inv.markSetmode {s : State} (h : s.Inv) (m : RefreshMode) : (s.markSetmode m).Inv := by
  unfold State.markSetmode
  split
  · exact h
  · obtain ⟨-, -, -, -, hrst⟩ := h
    exact ⟨fun _ => rfl, fun _ => rfl, nofun, nofun, hrst⟩

theorem State.Inv.markRefresh {s : State} (h : s.Inv) (x y w h' : Int) : (s.markRefresh x y w h').Inv := by
  unfold State.markRefresh
  split
  · exact State.Inv.markActivated (s := { s with first := false }) h
  · split
    · exact h
    · exact h.markActivated

/-- The fields an admitted instruction writes keep the invariants (R34). -/
theorem State.Inv.marked {i : Instr} {s : State} (h : s.Inv) (hi : Admitted i s) : (s.marked i).Inv := by
  induction i using Instr.row_or_host
  case row hrow => rwa [State.marked_row hrow]
  case init => exact h.markRunInit
  case setmode m => exact h.markSetmode m
  case setframe | clear => exact h.markEnsured
  case display => exact h.markActivated
  case refresh => exact h.markRefresh ..
  case pwroff => exact h.markPoweredOff
  case setorient | waitidle | sendcmd => exact h
  all_goals obtain ⟨-, hinited, hlatch, hmode, hrst⟩ := h
  case hibernate | sleep => exact ⟨fun _ => rfl, fun _ => rfl, nofun, nofun, hrst⟩
  case reset => exact ⟨nofun, nofun, nofun, nofun, hrst⟩
  case pwron =>
    obtain ⟨-, -, hpwron⟩ := hi
    have hhib : s.hib = false := hpwron rfl
    exact ⟨fun hh => absurd (hhib.symm.trans hh) nofun, hinited, fun hp => ⟨rfl, (hlatch hp).2⟩, hmode, hrst⟩

/-- Every instruction that completes keeps the invariants of R34. -/
theorem exec_keeps_inv {i : Instr} {s t : State} (hs : s.Inv) (h : exec i s = .next t) : t.Inv := by
  obtain ⟨hoff, hinited, hlatch, hmode, -⟩ := hs.marked (admitted_of_exec h)
  obtain ⟨-, -, -, -, hlow⟩ := hs
  have hrst := exec_rst_high h hlow
  obtain ⟨es, rfl, -⟩ := exec_sends h
  exact ⟨hoff, hinited, hlatch, hmode, hrst⟩

/-- Settles O45: an idle step changes nothing, and the port and the position are no part of the invariants. -/
theorem stepKeepsStateInvariants : Obligations.StepKeepsStateInvariants := by
  unfold Obligations.StepKeepsStateInvariants
  intro s t hs h
  rcases step_cases h with ⟨-, rfl⟩ | ⟨r, rest, i, u, -, -, hexec, rfl⟩
  case inl => exact hs
  case inr =>
    have hu : u.Inv := exec_keeps_inv (s := { s with port := rest }) hs hexec
    exact hu

/-! ### The bindings and the flags -/

/-- What a completed instruction has written of MODE, ORIENT, POWER, HIB, INITED, INITMODE, PLATCH and FIRST: one case for each
way in which it writes them. -/
inductive Writes (s : State) : Instr → State → Prop
  | nothing {i : Instr} (hinit : i.mayInit = false) (hset : ∀ m, i ≠ .setmode m) (hhib : i ≠ .hibernate)
      (hsleep : i ≠ .sleep) (hreset : i ≠ .reset) : Writes s i s
  | keepInit {i : Instr} (hi : i.mayInit = true) (hs : s.isInitialized = true) : Writes s i s
  | runInit {i : Instr} (hi : i.mayInit = true) : Writes s i s.markRunInit
  | sameMode : Writes s (.setmode s.mode) s
  | newMode {m : RefreshMode} (hm : m ≠ s.mode) :
      Writes s (.setmode m) { ({ s with mode := m } : State).markPoweredOff with inited := false }
  | setorient (o : Orientation) : Writes s (.setorient o) { s with orient := o }
  | fastDisplay (hm : s.mode = .fast) : Writes s .display s.markPoweredOff
  | firstRefresh (x y w h : Int) : Writes s (.refresh x y w h) { s with first := false }
  | firstFastRefresh (x y w h : Int) (hm : s.mode = .fast) :
      Writes s (.refresh x y w h) ({ s with first := false } : State).markPoweredOff
  | fastRefresh (x y w h : Int) (hm : s.mode = .fast) : Writes s (.refresh x y w h) s.markPoweredOff
  | hibernate : Writes s .hibernate s.markPoweredOff.markHibernating
  | sleep : Writes s .sleep s.markPoweredOff.markHibernating
  | reset : Writes s .reset s.clearTracking
  | pwron : Writes s .pwron { s with power := .on }
  | pwroff : Writes s .pwroff s.markPoweredOff

theorem Writes.markEnsured (s : State) {i : Instr} (hi : i.mayInit = true) : Writes s i s.markEnsured := by
  unfold State.markEnsured
  split
  case isTrue hs => exact .keepInit hi hs
  case isFalse => exact .runInit hi

theorem Writes.markSetmode (s : State) (m : RefreshMode) : Writes s (.setmode m) (s.markSetmode m) := by
  unfold State.markSetmode
  split
  case isTrue hm => exact hm ▸ .sameMode
  case isFalse hm => exact .newMode hm

theorem Writes.display (s : State) : Writes s .display s.markActivated := by
  unfold State.markActivated
  split
  case isTrue hm => exact .fastDisplay hm
  case isFalse => exact .nothing rfl nofun nofun nofun nofun

theorem Writes.markRefresh (s : State) (x y w h : Int) : Writes s (.refresh x y w h) (s.markRefresh x y w h) := by
  unfold State.markRefresh State.markActivated
  split
  case isTrue =>
    split
    case isTrue hm => exact .firstFastRefresh x y w h hm
    case isFalse => exact .firstRefresh x y w h
  case isFalse =>
    split
    case h_1 => exact .nothing rfl nofun nofun nofun nofun
    case h_2 =>
      split
      case isTrue hm => exact .fastRefresh x y w h hm
      case isFalse => exact .nothing rfl nofun nofun nofun nofun

/-- A command row is none of the operations that write a field. -/
theorem Writes.row (s : State) {i : Instr} {n : Command} {p : Option (List Byte)} (hi : i.command = some (n, p)) :
    Writes s i s := by
  refine .nothing ?_ (fun m => ?_) ?_ ?_ ?_
  case refine_1 => cases i <;> cases hi <;> rfl
  all_goals
    rintro rfl
    cases hi

theorem writes_marked (s : State) (i : Instr) : Writes s i (s.marked i) := by
  induction i using Instr.row_or_host
  case row hi =>
    rw [State.marked_row hi]
    exact .row s hi
  case init => exact .runInit rfl
  case setmode m => exact .markSetmode s m
  case setorient o => exact .setorient o
  case setframe | clear => exact .markEnsured s rfl
  case display => exact .display s
  case refresh => exact .markRefresh ..
  case hibernate => exact .hibernate
  case sleep => exact .sleep
  case reset => exact .reset
  case pwron => exact .pwron
  case pwroff => exact .pwroff
  case waitidle | sendcmd => exact .nothing rfl nofun nofun nofun nofun

theorem Writes.trace {s m : State} {i : Instr} (h : Writes s i m) : m.trace = s.trace := by
  cases h <;> rfl

/-- Whatever instruction completes, the fields of the next state are those of one of these cases. -/
theorem exec_writes {i : Instr} {s t : State} (h : exec i s = .next t) : ∃ m es, Writes s i m ∧ t = m.after es := by
  obtain ⟨es, ht, -⟩ := exec_sends h
  exact ⟨s.marked i, es, writes_marked s i, ht⟩

/-- Settles O50: MODE, ORIENT and FIRST are written in the cases of SETMODE, SETORIENT and the first REFRESH only. -/
theorem bindingsHaveOneWriter : Obligations.BindingsHaveOneWriter := by
  unfold Obligations.BindingsHaveOneWriter
  intro i s t h
  obtain ⟨m, es, hw, rfl⟩ := exec_writes h
  simp only [State.after_mode, State.after_orient, State.after_first]
  cases hw
  case newMode => exact ⟨fun _ => rfl, absurd rfl, absurd rfl⟩
  case setorient => exact ⟨absurd rfl, fun _ => rfl, absurd rfl⟩
  case firstRefresh | firstFastRefresh =>
    exact ⟨absurd rfl, absurd rfl, fun _ => ⟨rfl, _, _, _, _, rfl⟩⟩
  all_goals exact ⟨absurd rfl, absurd rfl, absurd rfl⟩

theorem State.platch_set_by_runInit {s : State} (hs : s.platch = false) (ht : s.markRunInit.platch = true) :
    s.mode = .part := by
  by_contra hne
  simp [State.markRunInit, hne, hs] at ht

theorem State.platch_cleared_by_runInit {s : State} (hs : s.platch = true) (ht : s.markRunInit.platch = false) :
    s.mode ≠ .part ∧ (s.cfg.initResetPolicy = .always ∨ s.hib = true) := by
  constructor
  case left =>
    intro hpart
    simp [State.markRunInit, hpart] at ht
  case right =>
    have hpulse : s.needsPulse = true := by
      by_contra hne
      simp [State.markRunInit, hne, hs] at ht
    simpa [State.needsPulse] using hpulse

/-- Settles O51: each flag is set and cleared only in the cases of its writers. -/
theorem flagsChangeOnlyByTheirWriters : Obligations.FlagsChangeOnlyByTheirWriters := by
  unfold Obligations.FlagsChangeOnlyByTheirWriters
  intro i s t h
  obtain ⟨m, es, hw, rfl⟩ := exec_writes h
  simp only [State.after_power, State.after_hib, State.after_inited, State.after_platch]
  cases hw
  case runInit hi =>
    exact ⟨fun _ _ => .inr hi, fun _ => nofun, fun _ => nofun, fun _ _ => .inr hi, fun _ _ => hi, fun _ => nofun,
      fun hs ht => ⟨hi, State.platch_set_by_runInit hs ht⟩,
      fun hs ht => .inr (.inr (.inr (.inr (.inr (.inr ⟨hi, State.platch_cleared_by_runInit hs ht⟩)))))⟩
  all_goals simp +contextual [State.markPoweredOff, *]

/-- The operations that may run the initialization are none of those that end one. -/
theorem Instr.ne_of_mayInit {i : Instr} (hi : i.mayInit = true) :
    (∀ m, i ≠ .setmode m) ∧ i ≠ .hibernate ∧ i ≠ .sleep ∧ i ≠ .reset := by
  refine ⟨fun m => ?_, ?_, ?_, ?_⟩
  all_goals
    rintro rfl
    cases hi

/-- Settles O52: INITED, INITMODE and MODE in each case of what an instruction writes. -/
theorem driverStateMachine : Obligations.DriverStateMachine := by
  unfold Obligations.DriverStateMachine
  intro i s t _ h
  obtain ⟨m, es, hw, rfl⟩ := exec_writes h
  simp only [State.after_inited, State.after_initMode, State.after_mode]
  cases hw with
  | keepInit hi hs =>
    obtain ⟨hset, hhib, hsleep, hreset⟩ := Instr.ne_of_mayInit hi
    obtain ⟨hinited, hmode, -⟩ := (isInitialized_iff s).1 hs
    simp [hi, hset, hhib, hsleep, hreset, hinited, hmode]
  | runInit hi =>
    obtain ⟨hset, hhib, hsleep, hreset⟩ := Instr.ne_of_mayInit hi
    simp [hi, hset, hhib, hsleep, hreset, State.markRunInit]
  | newMode hm => simp +contextual [hm, Instr.mayInit, State.markPoweredOff]
  | nothing hinit hset hhib hsleep hreset => simp [hinit, hset, hhib, hsleep, hreset]
  | _ => simp [State.markPoweredOff, Instr.mayInit]

/-! ### Time-outs -/

/-- The state with another past trace and other BUSY inputs to come. -/
def State.withInputs (s : State) (tr : List Event) (levels : List Level) (n : Nat) : State :=
  { s with trace := tr, busyIn := levels, polls := n }

theorem SameButInputs.withInputs (s : State) (tr : List Event) (levels : List Level) (n : Nat) :
    SameButInputs s (s.withInputs tr levels n) := rfl

theorem State.withInputs_first (s : State) (tr : List Event) (levels : List Level) (n : Nat) :
    (s.withInputs tr levels n).first = s.first := rfl

theorem State.markEnsured_withInputs (s : State) (tr : List Event) (levels : List Level) (n : Nat) :
    (s.withInputs tr levels n).markEnsured = s.markEnsured.withInputs tr levels n :=
  (apply_ite (State.withInputs · tr levels n) (s.isInitialized = true) s s.markRunInit).symm

theorem State.markActivated_withInputs (s : State) (tr : List Event) (levels : List Level) (n : Nat) :
    (s.withInputs tr levels n).markActivated = s.markActivated.withInputs tr levels n :=
  (apply_ite (State.withInputs · tr levels n) (s.mode = .fast) s.markPoweredOff s).symm

theorem State.markSetmode_withInputs (s : State) (m : RefreshMode) (tr : List Event) (levels : List Level) (n : Nat) :
    (s.withInputs tr levels n).markSetmode m = (s.markSetmode m).withInputs tr levels n :=
  (apply_ite (State.withInputs · tr levels n) (m = s.mode) s
    { ({ s with mode := m } : State).markPoweredOff with inited := false }).symm

theorem State.markRefresh_withInputs (s : State) (x y w h : Int) (tr : List Event) (levels : List Level) (n : Nat) :
    (s.withInputs tr levels n).markRefresh x y w h = (s.markRefresh x y w h).withInputs tr levels n := by
  unfold State.markRefresh
  rw [State.withInputs_first]
  split
  case isTrue => exact State.markActivated_withInputs { s with first := false } tr levels n
  case isFalse =>
    split
    case h_1 => rfl
    case h_2 => exact s.markActivated_withInputs tr levels n

/-- No operation reads the trace or the inputs to decide what it writes. -/
theorem State.marked_withInputs (s : State) (i : Instr) (tr : List Event) (levels : List Level) (n : Nat) :
    (s.withInputs tr levels n).marked i = (s.marked i).withInputs tr levels n := by
  induction i using Instr.row_or_host
  case row hi => rw [State.marked_row hi, State.marked_row hi]
  case setmode m => exact s.markSetmode_withInputs m tr levels n
  case setframe | clear => exact s.markEnsured_withInputs tr levels n
  case display => exact s.markActivated_withInputs tr levels n
  case refresh => exact s.markRefresh_withInputs ..
  all_goals rfl

/-- No operation reads the trace or the inputs to decide what it sends. -/
theorem State.sent_withInputs (s : State) (i : Instr) (tr : List Event) (levels : List Level) (n : Nat) :
    (s.withInputs tr levels n).sent i = s.sent i := rfl

/-- Events that differ in polls and sleeps only leave the same latches (R249). -/
theorem SameButInputs.after {s s' : State} (h : SameButInputs s s') {es es' : List Event}
    (he : commandEvents es = commandEvents es') : SameButInputs (s.after es) (s'.after es') := by
  have hl : ∀ l, lastDrive l es = lastDrive l es' := fun l => by
    rw [← lastDrive_commandEvents, he, lastDrive_commandEvents]
  rw [← h]
  simp only [SameButInputs, State.after, hl]

/-- Whether an instruction completes does not depend on the trace or the inputs. -/
theorem Admitted.withInputs {i : Instr} {s : State} (h : Admitted i s) (tr : List Event) (levels : List Level) (n : Nat) :
    Admitted i (s.withInputs tr levels n) := h

/-- Settles O53: from both states the instruction completes, writes the same fields and sends the same commands. -/
theorem timeoutsChangeNothing : Obligations.TimeoutsChangeNothing := by
  unfold Obligations.TimeoutsChangeNothing
  intro i s s' t hsame h
  have hs' : s' = s.withInputs s'.trace s'.busyIn s'.polls := hsame.symm
  obtain ⟨t', h'⟩ : ∃ t', exec i s' = .next t' := by
    rw [hs']
    exact exec_of_admitted ((admitted_of_exec h).withInputs ..)
  obtain ⟨es, rfl, hsent⟩ := exec_sends h
  obtain ⟨es', rfl, hsent'⟩ := exec_sends h'
  have hcmds : commandEvents es = commandEvents es' := by rw [hsent, hsent', hs', State.sent_withInputs]
  have hmarked : SameButInputs (s.marked i) (s'.marked i) := by
    rw [hs', State.marked_withInputs]
    exact .withInputs ..
  exact ⟨_, es, es', h', hmarked.after hcmds, congrArg (· ++ es) (writes_marked s i).trace,
    congrArg (· ++ es') (writes_marked s' i).trace, hcmds⟩

end Sys2Proof.Machine
end

section
/-!
PROOF. The CommandChannel and the PowerController, operation by operation (R101, R103, R110 to R116, R118).
-/

namespace Sys2Proof.Machine

open Sys2Proof

/-! ### CommandChannel -/

/-- Settles O10: a payload that is present but empty fails the test of SENDCMD. -/
theorem sendcmdRefusesEmptyPayload : Obligations.SendcmdRefusesEmptyPayload := by
  unfold Obligations.SendcmdRefusesEmptyPayload
  intro op s
  have hp : ¬ payloadPresent (some []) = true := by decide
  calc exec (.sendcmd op (some [])) s
    _ = execSendcmd op (some []) s := rfl
    _ = .refused .emptyPayload := by rw [execSendcmd, if_neg hp]

/-- The events of a reset pulse leave the reset line high and take no BUSY level. -/
theorem State.after_pulseEvents (s : State) :
    s.after (pulseEvents s.cfg) = { s with rst := .high, trace := s.trace ++ pulseEvents s.cfg } := rfl

/-- Settles O11: RESET is the pulse, then the four tracking fields. -/
theorem resetPulsesAndClearsTracking : Obligations.ResetPulsesAndClearsTracking := by
  unfold Obligations.ResetPulsesAndClearsTracking
  intro s
  calc exec .reset s
    _ = .next s.resetPulse := rfl
    _ = .next (s.after (pulseEvents s.cfg)).clearTracking := by rw [State.resetPulse_eq]
    _ = _ := by rw [State.after_pulseEvents]; rfl

/-! ### How long a wait is -/

theorem busySpan_le (busy : Nat → Bool) (n : Nat) : busySpan busy n ≤ n := by
  induction n generalizing busy with
  | zero => exact Nat.le_refl 0
  | succ n ih =>
    unfold busySpan
    split
    · exact Nat.succ_le_succ (ih _)
    · exact Nat.zero_le _

/-- Every answer before the span's end is busy. -/
theorem busy_of_lt_busySpan {busy : Nat → Bool} {n j : Nat} (h : j < busySpan busy n) : busy j = true := by
  induction n generalizing busy j with
  | zero => exact absurd h (Nat.not_lt_zero j)
  | succ n ih =>
    unfold busySpan at h
    split at h
    case isTrue hb =>
      cases j with
      | zero => exact hb
      | succ j => exact ih (busy := fun j => busy (j + 1)) (Nat.lt_of_succ_lt_succ h)
    case isFalse => exact absurd h (Nat.not_lt_zero j)

/-- The answer at the span's end is busy only where the bound ended it. -/
theorem busySpan_eq_of_busy {busy : Nat → Bool} {n : Nat} (h : busy (busySpan busy n) = true) : busySpan busy n = n := by
  induction n generalizing busy with
  | zero => rfl
  | succ n ih =>
    unfold busySpan at h ⊢
    split at h
    case isTrue hb => rw [if_pos hb, ih (busy := fun j => busy (j + 1)) h]
    case isFalse hb => exact absurd h hb

/-- The events of `k` busy answers and the poll that ends the wait (R111). -/
def State.pollEvents (s : State) (k : Nat) : List Event :=
  (List.range k).flatMap (fun j => [.poll (s.inputAt j), .sleep s.cfg.pollMs]) ++ [.poll (s.inputAt k)]

theorem State.waitEvents_of_busy {s : State} (hb : s.cfg.hasBusy = true) (t : Nat) :
    s.waitEvents t = s.pollEvents (busySpan (fun j => s.cfg.isBusy (s.inputAt j)) (ceilDiv t s.cfg.pollMs)) :=
  if_pos hb

theorem State.waitEvents_of_not_busy {s : State} (hb : s.cfg.hasBusy = false) (t : Nat) :
    s.waitEvents t = List.replicate (ceilDiv t s.cfg.noBusyStepMs) (.sleep s.cfg.noBusyStepMs) := by
  rw [State.waitEvents, hb, if_neg Bool.false_ne_true]

theorem State.pollCount_pollEvents (s : State) (k : Nat) : pollCount (s.pollEvents k) = k + 1 := by
  simp [pollCount, State.pollEvents, List.countP_flatMap, Function.comp_def, List.countP_cons, Event.isPoll]

theorem State.sleepCount_pollEvents (s : State) (k : Nat) : (s.pollEvents k).countP Event.isSleep = k := by
  simp [State.pollEvents, List.countP_flatMap, Function.comp_def, List.countP_cons, Event.isSleep]

theorem State.pollEvents_isWait {s : State} (hb : s.cfg.hasBusy = true) (k : Nat) :
    ∀ e ∈ s.pollEvents k, e.isWait s.cfg := by
  intro e he
  simp only [State.pollEvents, List.mem_append, List.mem_flatMap, List.mem_cons, List.not_mem_nil, or_false] at he
  rcases he with ⟨j, -, rfl | rfl⟩ | rfl
  · exact .inl ⟨rfl, hb⟩
  · exact .inr rfl
  · exact .inl ⟨rfl, hb⟩

/-! ### WAITIDLE -/

theorem exec_waitidle_of_nonneg {T : Int} (hT : 0 ≤ T) (s : State) : exec (.waitidle T) s = .next (s.waitIdle T.toNat) :=
  if_pos hT

/-- Settles O15: the test of WAITIDLE fails. -/
theorem waitidleRefusesNegativeTime : Obligations.WaitidleRefusesNegativeTime := by
  unfold Obligations.WaitidleRefusesNegativeTime
  intro T s hT
  exact if_neg (Int.not_le.2 hT)

/-- Settles O12: k is the span of busy answers, cut off at the bound. -/
theorem waitidlePollsUntilIdleOrBound : Obligations.WaitidlePollsUntilIdleOrBound := by
  unfold Obligations.WaitidlePollsUntilIdleOrBound
  intro T s hT hb hp
  refine ⟨busySpan (fun j => s.cfg.isBusy (s.inputAt j)) (ceilDiv T.toNat s.cfg.pollMs), busySpan_le _ _,
    fun j hj => busy_of_lt_busySpan hj, busySpan_eq_of_busy (busy := fun j => s.cfg.isBusy (s.inputAt j)), ?_⟩
  have hloop := State.pollLoop_eq_after (T.toNat + 1) T.toNat s hp (Nat.lt_succ_self _)
  generalize busySpan (fun j => s.cfg.isBusy (s.inputAt j)) (ceilDiv T.toNat s.cfg.pollMs) = k at hloop ⊢
  calc exec (.waitidle T) s
    _ = .next (s.waitIdle T.toNat) := exec_waitidle_of_nonneg hT s
    _ = .next (s.after (s.pollEvents k)) := congrArg Host.Outcome.next ((if_pos hb).trans hloop)
    _ = _ := by rw [State.after_isWait s _ (State.pollEvents_isWait hb k), State.pollCount_pollEvents]; rfl

theorem isWait_of_mem_replicate {c : Cfg} {n ms : Nat} : ∀ e ∈ List.replicate n (Event.sleep ms), e.isWait c := by
  intro e he
  rw [(List.mem_replicate.1 he).2]
  exact .inr rfl

theorem countP_isPoll_sleeps (n ms : Nat) : (List.replicate n (Event.sleep ms)).countP Event.isPoll = 0 := by
  simp [List.countP_replicate, Event.isPoll]

/-- Settles O13: the closed form of the sleep loop, whose events take no BUSY level. -/
theorem waitidleSleepsWithoutBusyLine : Obligations.WaitidleSleepsWithoutBusyLine := by
  unfold Obligations.WaitidleSleepsWithoutBusyLine
  intro T s hT hb hp
  have hloop := State.sleepLoop_eq_after T.toNat T.toNat s hp (Nat.le_refl _)
  have hidle : s.waitIdle T.toNat = State.sleepLoop T.toNat T.toNat s := by
    rw [State.waitIdle, hb, if_neg Bool.false_ne_true]
  rw [exec_waitidle_of_nonneg hT, hidle, hloop, State.after_isWait s _ isWait_of_mem_replicate, pollCount,
    countP_isPoll_sleeps]
  rfl

/-- Settles O14: the events of the wait, counted with and without a busy line. -/
theorem waitidleIsBounded : Obligations.WaitidleIsBounded := by
  unfold Obligations.WaitidleIsBounded
  intro T s u htimed h
  obtain ⟨-, rfl⟩ := exec_waitidle_cases h
  rw [State.waitIdle_eq_after s _ htimed]
  refine ⟨s.waitEvents T.toNat, rfl, waitEvents_poll_or_sleep s _, fun hb => ?busy, fun hb => ?silent⟩
  case busy =>
    rw [State.waitEvents_of_busy hb, State.sleepCount_pollEvents]
    have hpolls := s.pollCount_pollEvents (busySpan (fun j => s.cfg.isBusy (s.inputAt j)) (ceilDiv T.toNat s.cfg.pollMs))
    exact ⟨hpolls.trans_le (Nat.succ_le_succ (busySpan_le _ _)), busySpan_le _ _⟩
  case silent =>
    rw [State.waitEvents_of_not_busy hb, countP_isPoll_sleeps]
    exact ⟨rfl, by simp [List.countP_replicate, Event.isSleep]⟩

/-! ### PWRON and PWROFF -/

/-- Settles O16: refused while hibernating, else the closed form of its POWER. -/
theorem pwronPowersOnOnce : Obligations.PwronPowersOnOnce := by
  unfold Obligations.PwronPowersOnOnce
  intro s htimed
  refine ⟨exec_pwron_of_hib, fun hhib hon => ?_, fun hhib hoff => ?_⟩
  · rw [exec_pwron_of_not_hib hhib, State.powerOn_of_on s hon]
  · rw [exec_pwron_of_not_hib hhib, State.powerOn_of_off s htimed hoff]
    rfl

theorem exec_pwroff (s : State) : exec .pwroff s = .next s.powerOff := rfl

/-- Settles O17: the closed form of PWROFF for either POWER. -/
theorem pwroffPowersOffOnce : Obligations.PwroffPowersOffOnce := by
  unfold Obligations.PwroffPowersOffOnce
  intro s htimed
  rw [exec_pwroff]
  refine ⟨fun hoff => ?_, fun hon => ?_⟩
  · rw [State.powerOff_of_off s hoff]
  · rw [State.powerOff_of_on s htimed hon]
    rfl

/-- What PWROFF leaves, PWROFF leaves alone. -/
theorem State.powerOff_powerOff (s : State) : s.powerOff.powerOff = s.powerOff := by
  obtain ⟨w, hw, -⟩ := State.powerOff_keeps s
  rw [hw, State.powerOff_of_off _ rfl]

/-- Settles O18: the first call leaves POWER On, or Off with the latch cleared, and from there the operation does nothing. -/
theorem powerOperationsAreIdempotent : Obligations.PowerOperationsAreIdempotent := by
  unfold Obligations.PowerOperationsAreIdempotent
  intro s t
  refine ⟨fun h => ?pwron, fun h => ?pwroff⟩
  case pwron =>
    obtain ⟨hhib, -⟩ := exec_pwron_cases h
    obtain ⟨es, rfl, -⟩ := exec_sends h
    have hhib' : ((s.marked .pwron).after es).hib = false := hhib
    rw [exec_pwron_of_not_hib hhib', State.powerOn_of_on _ rfl]
  case pwroff =>
    rw [exec_pwroff] at h
    obtain rfl := Host.Outcome.next.inj h
    rw [exec_pwroff, State.powerOff_powerOff]

/-- An admitted instruction completes in a state with the fields it writes. -/
theorem exec_marked {i : Instr} {s : State} (hi : Admitted i s) : ∃ es, exec i s = .next ((s.marked i).after es) := by
  obtain ⟨t, ht⟩ := exec_of_admitted hi
  obtain ⟨es, rfl, -⟩ := exec_sends ht
  exact ⟨es, ht⟩

/-- Settles O19: POWER and HIB of the fields each operation writes. -/
theorem powerTransitionsOfTable : Obligations.PowerTransitionsOfTable := by
  unfold Obligations.PowerTransitionsOfTable
  intro s _
  have runs (i : Instr) (hi : Admitted i s) := exec_marked hi
  refine ⟨fun hhib => ?_, ?_, ?_, ?_, ?_⟩
  · obtain ⟨es, h⟩ := runs .pwron ⟨rfl, rfl, fun _ => hhib⟩
    exact ⟨_, h, rfl, hhib⟩
  · obtain ⟨es, h⟩ := runs .pwroff ⟨rfl, rfl, nofun⟩
    exact ⟨_, h, rfl, rfl⟩
  · obtain ⟨es, h⟩ := runs .hibernate ⟨rfl, rfl, nofun⟩
    exact ⟨_, h, rfl, rfl⟩
  · obtain ⟨es, h⟩ := runs .reset ⟨rfl, rfl, nofun⟩
    exact ⟨_, h, rfl, rfl⟩
  · obtain ⟨es, h⟩ := runs .init ⟨rfl, rfl, nofun⟩
    exact ⟨_, h, rfl, rfl⟩

/-! ### HIBERNATE -/

/-- The events of PWROFF: its frames and its wait, only if On (R114). -/
def State.powerOffEvents (s : State) : List Event :=
  if s.power = .on then s.seqThenWait (powerSeq s.cfg.ducPoff) (s.cfg.tPoff.get s.mode) else []

theorem State.powerOff_eq_after {s : State} (htimed : s.cfg.Timed) :
    s.powerOff = (s.after s.powerOffEvents).markPoweredOff := by
  unfold State.powerOffEvents
  cases hp : s.power with
  | on => rw [State.powerOff_of_on s htimed hp, if_pos rfl, State.markPoweredOff]
  | off => rw [State.powerOff_of_off s hp, if_neg nofun, State.after_nil, State.markPoweredOff, ← hp]

theorem State.after_powerOffEvents_rst (s : State) : (s.after s.powerOffEvents).rst = s.rst := by
  unfold State.powerOffEvents
  split
  · exact State.after_seqThenWait_rst ..
  · rw [State.after_nil]

/-- The deep-sleep frame of HIBERNATE, unless RST is held low (R116). -/
def State.deepSleepEvents (s : State) : List Event :=
  if s.rst = .high then seqEvents s.cfg [(.deepSleepMode, some [s.cfg.deepSleepEnter])] else []

theorem State.hibernate_eq (s : State) :
    s.hibernate = (s.powerOff.after s.powerOff.deepSleepEvents).markHibernating := by
  unfold State.hibernate State.deepSleepEvents
  by_cases hr : s.powerOff.rst = .high
  · simp only [if_pos hr, State.send_eq_after, seqEvents, List.flatMap_singleton]
  · simp only [if_neg hr, State.after_nil]

/-- Settles O20: PWROFF leaves the reset line where it was, and by its level the deep-sleep frame follows. -/
theorem hibernatePowersOffThenSleeps : Obligations.HibernatePowersOffThenSleeps := by
  unfold Obligations.HibernatePowersOffThenSleeps
  intro s htimed
  have hsleep : (s.after s.powerOffEvents).markPoweredOff.deepSleepEvents = s.deepSleepEvents := by
    unfold State.deepSleepEvents
    rw [show (s.after s.powerOffEvents).markPoweredOff.rst = s.rst from s.after_powerOffEvents_rst]
    rfl
  calc exec .hibernate s
    _ = .next s.hibernate := rfl
    _ = .next (((s.after s.powerOffEvents).markPoweredOff.after s.deepSleepEvents).markHibernating) := by
      rw [State.hibernate_eq, State.powerOff_eq_after htimed, hsleep]
    _ = .next ((s.after (s.powerOffEvents ++ s.deepSleepEvents)).markPoweredOff.markHibernating) := by
      rw [State.after_append]
      rfl

end Sys2Proof.Machine
end

section
/-!
PROOF. The RefreshModeStrategy and the EpdDriver, operation by operation (R131, R141 to R145, R160 to R167), and what one
operation leaves for the next (R116, R161, R244).
-/

namespace Sys2Proof.Machine

open Sys2Proof

/-! ### The window of SETFRAME -/

theorem frameDomain_iff (x y w h : Int) :
    frameDomain x y w h = true ↔ 0 ≤ x ∧ x < 200 ∧ 0 ≤ y ∧ y < 200 ∧ 8 ≤ w ∧ 1 ≤ h := by
  simp only [frameDomain, Bool.and_eq_true, decide_eq_true_eq, and_assoc, Config.width, Config.height]

theorem calcCoords_onPanel {x y w h : Int} (hdom : frameDomain x y w h = true) : (calcCoords x y w h).OnPanel := by
  rw [frameDomain_iff] at hdom
  simp only [calcCoords_eq, Window.OnPanel]
  omega

/-- The corner addresses of a window on the panel are addresses of the controller's RAM (R51, R87). -/
theorem Window.OnPanel.corners_bounds {r : Window} (hr : r.OnPanel) (o : Orientation) :
    0 ≤ (r.corners o).cs ∧ (r.corners o).cs ≤ 24 ∧ 0 ≤ (r.corners o).ce ∧ (r.corners o).ce ≤ 24
      ∧ 0 ≤ (r.corners o).rs ∧ (r.corners o).rs ≤ 199 ∧ 0 ≤ (r.corners o).re ∧ (r.corners o).re ≤ 199 := by
  unfold Window.OnPanel at hr
  cases o <;> simp only [Window.corners, Config.maxCol, Config.maxRow, Config.width, Config.height, Config.gran] <;> omega

/-- Settles O22: the window is on the panel, and so are the addresses of its corners. -/
theorem calcCoordsStaysOnPanel : Obligations.CalcCoordsStaysOnPanel := by
  unfold Obligations.CalcCoordsStaysOnPanel
  intro x y w h o hdom
  exact ⟨calcCoords_onPanel hdom, (calcCoords_onPanel hdom).corners_bounds o⟩

/-! ### INIT -/

/-- The events of PWRON: its frames and its wait, only if Off (R113). -/
def State.powerOnEvents (s : State) : List Event :=
  if s.power = .off then s.seqThenWait (powerSeq s.cfg.ducPon) (s.cfg.tPon.get s.mode) else []

theorem State.powerOn_eq_after {s : State} (htimed : s.cfg.Timed) :
    s.powerOn = { s.after s.powerOnEvents with power := .on } := by
  unfold State.powerOnEvents
  cases hp : s.power with
  | on => rw [State.powerOn_of_on s hp, if_neg nofun, State.after_nil, ← hp]
  | off => rw [State.powerOn_of_off s htimed hp, if_pos rfl]

/-- The events of RUNINIT before its power-on: the pulse if needed, the mode's sequence (R142). -/
def State.initEvents (s : State) : List Event :=
  (if s.needsPulse then pulseEvents s.cfg else []) ++ seqEvents s.cfg (s.cfg.initSeq.get s.mode)

/-- RUNINIT up to its power-on: the events, and after a pulse the four tracking fields cleared. -/
theorem State.pulse_then_seq (s : State) :
    s.pulseIfNeeded.playSeq (s.cfg.initSeq.get s.mode) =
      if s.needsPulse then (s.after s.initEvents).clearTracking else s.after s.initEvents := by
  unfold State.initEvents State.pulseIfNeeded
  rw [State.playSeq_eq_after]
  split
  · rw [State.resetPulse_eq, State.after_append]
    rfl
  · rfl

/-- Settles O26: the closed form of PWRON after the pulse and the sequence, then the record of the mode. -/
theorem initPlaysModeSequence : Obligations.InitPlaysModeSequence := by
  unfold Obligations.InitPlaysModeSequence
  intro s htimed
  change exec .init s = .next
    { s.after (s.initEvents ++ if s.needsPulse || s.power == .off then
          (s.after s.initEvents).seqThenWait (powerSeq s.cfg.ducPon) (s.cfg.tPon.get s.mode) else []) with
      hib := false
      inited := true
      initMode := s.mode
      power := .on
      platch := if s.mode = .part then true else if s.needsPulse then false else s.platch }
  have hinit : exec .init s = .next (s.pulseIfNeeded.playSeq (s.cfg.initSeq.get s.mode)).powerOn.markInitialized := rfl
  rw [hinit, State.pulse_then_seq, State.after_append]
  cases hn : s.needsPulse with
  | true =>
    rw [if_pos rfl, State.powerOn_eq_after (s := (s.after s.initEvents).clearTracking) htimed]
    rfl
  | false =>
    rw [if_neg Bool.false_ne_true, State.powerOn_eq_after (s := s.after s.initEvents) htimed]
    have hhib : s.hib = false := (Bool.or_eq_false_iff.1 hn).2
    cases hp : s.power <;> simp [State.powerOnEvents, State.markInitialized, State.after, hp, hhib]

/-! ### SETFRAME and CLEAR -/

/-- SETFRAME on an initialized block is the frames of WRITEFRAME alone (R141, R144). -/
theorem exec_setframe_of_isInitialized {buf : List Byte} {x y w h : Int} {s : State} (hs : s.isInitialized = true)
    (hbuf : buf ≠ []) (hdom : frameDomain x y w h = true) :
    exec (.setframe buf x y w h) s =
      .next (s.after (seqEvents s.cfg (writeFrameSeq s.cfg s.mode s.orient buf (calcCoords x y w h)))) := by
  rw [exec_setframe_of_frameDomain hbuf hdom, State.setFrame_eq_after, State.ensureInit, if_pos hs]

/-- Settles O27: ENSUREINIT does nothing, and the sequence of WRITEFRAME is the one written out. -/
theorem setframeWritesWhenInitialized : Obligations.SetframeWritesWhenInitialized := by
  unfold Obligations.SetframeWritesWhenInitialized
  intro buf x y w h s hinited hmode hhib hbuf hdom
  exact exec_setframe_of_isInitialized ((isInitialized_iff s).2 ⟨hinited, hmode, hhib⟩) hbuf hdom

/-- Settles O28: ENSUREINIT is INIT, and WRITEFRAME reads the same configuration, mode and orientation after it. -/
theorem setframeInitializesFirst : Obligations.SetframeInitializesFirst := by
  unfold Obligations.SetframeInitializesFirst
  intro buf x y w h s hs hbuf hdom
  refine ⟨s.runInit, rfl, ?_⟩
  rw [exec_setframe_of_frameDomain hbuf hdom, State.setFrame_eq_after, State.ensureInit,
    if_neg (mt (isInitialized_iff s).1 hs)]

/-- Settles O29: an empty buffer fails the first test of SETFRAME, a rectangle outside the domain the second. -/
theorem setframeRefusesOutsideDomain : Obligations.SetframeRefusesOutsideDomain := by
  unfold Obligations.SetframeRefusesOutsideDomain
  constructor
  case left =>
    intro x y w h s
    simp only [exec, execSetframe, if_true]
  case right =>
    intro buf x y w h s hbuf hout
    have hdom : ¬ frameDomain x y w h = true := by
      rw [frameDomain_iff]
      omega
    simp only [exec, execSetframe, if_neg hbuf, if_neg hdom]

/-- Settles O30: 5000 bytes are not empty and the whole panel is in the domain, so both are the same SETFRAME. -/
theorem clearIsFullPanelSetframe : Obligations.ClearIsFullPanelSetframe := by
  unfold Obligations.ClearIsFullPanelSetframe
  intro fill s
  have hbuf : List.replicate 5000 fill ≠ [] := List.ne_nil_of_length_pos (by rw [List.length_replicate]; decide)
  have hdom : frameDomain 0 0 200 200 = true := by decide
  have hcount : (Config.width * Config.height / 8).toNat = 5000 := by decide
  refine ⟨s.setFrame (List.replicate 5000 fill) 0 0 200 200, ?_, exec_setframe_of_frameDomain hbuf hdom s⟩
  rw [exec_clear, hcount]

/-! ### DISPLAY, REFRESH and SETMODE -/

theorem exec_display (s : State) : exec .display s = .next s.activate := rfl

/-- Settles O31: the closed form of ACTIVATE, in Fast mode followed by that of PWROFF. -/
theorem displayActivatesBoundMode : Obligations.DisplayActivatesBoundMode := by
  unfold Obligations.DisplayActivatesBoundMode
  intro s htimed
  rw [exec_display]
  refine ⟨fun hm => ?_, fun hm hoff => ?_, fun hm hon => ?_⟩
  · rw [State.activate_of_not_fast s htimed hm]
    rfl
  · rw [State.activate_of_fast s htimed hm, State.powerOff_of_off (s.after _) hoff]
    rfl
  · rw [State.activate_of_fast s htimed hm, State.powerOff_of_on (s.after _) htimed hon, State.after_append]
    rfl

/-- Settles O32: the three paths of REFRESH, SETRAMAREA in its closed form. -/
theorem refreshFirstFullThenWindowed : Obligations.RefreshFirstFullThenWindowed := by
  unfold Obligations.RefreshFirstFullThenWindowed
  intro x y w h s
  refine ⟨fun hfirst => ?_, fun hfirst hr => exec_refresh_of_none hfirst hr, fun r hfirst hr => ?_⟩
  · exact ⟨_, exec_refresh_of_first hfirst .., exec_display _⟩
  · refine ⟨_, exec_refresh_of_some hfirst hr, ?_⟩
    rw [State.setRamArea_eq_after, exec_display]
    rfl

/-- Settles O33: SETMODE of another mode is PWROFF on the state with that mode bound. -/
theorem setmodeRebindsAndPowersOff : Obligations.SetmodeRebindsAndPowersOff := by
  unfold Obligations.SetmodeRebindsAndPowersOff
  intro m s htimed
  refine ⟨exec_setmode_of_eq, fun hm hoff => ?_, fun hm hon => ?_⟩
  · rw [exec_setmode_of_ne hm, State.powerOff_of_off { s with mode := m } hoff]
  · rw [exec_setmode_of_ne hm, State.powerOff_of_on { s with mode := m } htimed hon]
    rfl

/-! ### One operation after another -/

/-- What a completed instruction appends, and what of it is sent. -/
theorem exec_appends {i : Instr} {s t : State} (h : exec i s = .next t) :
    ∃ es, t.trace = s.trace ++ es ∧ commandEvents es = s.sent i := by
  obtain ⟨es, rfl, hsent⟩ := exec_sends h
  exact ⟨es, congrArg (· ++ es) (writes_marked s i).trace, hsent⟩

/-- The configuration, the mode and the orientation that HIBERNATE leaves. -/
theorem exec_hibernate_cases {s t : State} (h : exec .hibernate s = .next t) :
    t.hib = true ∧ t.power = .off ∧ t.cfg = s.cfg ∧ t.mode = s.mode ∧ t.orient = s.orient := by
  obtain ⟨es, rfl, -⟩ := exec_sends h
  exact ⟨rfl, rfl, rfl, rfl, rfl⟩

/-- What SETMODE of another mode leaves (R161). -/
theorem exec_setmode_cases {m : RefreshMode} {s t : State} (hm : m ≠ s.mode) (h : exec (.setmode m) s = .next t) :
    t.mode = m ∧ t.power = .off ∧ t.hib = s.hib ∧ t.cfg = s.cfg := by
  obtain ⟨es, rfl, -⟩ := exec_sends h
  have hmarked : s.marked (.setmode m) = { ({ s with mode := m } : State).markPoweredOff with inited := false } := if_neg hm
  rw [hmarked]
  exact ⟨rfl, rfl, rfl, rfl⟩

/-- What an initialization sends where HIB = 1: the pulse, the sequence and the power-on frames (R142). -/
theorem State.runInitSends_of_hib {s : State} (hhib : s.hib = true) :
    s.runInitSends = pulseLines ++ seqEvents s.cfg (s.cfg.initSeq.get s.mode ++ powerSeq s.cfg.ducPon) := by
  have hn : s.needsPulse = true := by rw [State.needsPulse, hhib, Bool.or_true]
  simp only [State.runInitSends, hn, Bool.true_or, if_true, seqEvents_append, List.append_assoc]

/-- What an initialization sends where no pulse is needed and POWER is Off. -/
theorem State.runInitSends_of_off {s : State} (hn : s.needsPulse = false) (hoff : s.power = .off) :
    s.runInitSends = seqEvents s.cfg (s.cfg.initSeq.get s.mode ++ powerSeq s.cfg.ducPon) := by
  simp [State.runInitSends, hn, hoff, seqEvents_append]

/-- Settles O55: SETMODE leaves POWER Off and HIB as it was, so the last INIT needs no pulse, while HIB = 1 after construction. -/
theorem modeRoundTripReproducesInitialization : Obligations.ModeRoundTripReproducesInitialization := by
  unfold Obligations.ModeRoundTripReproducesInitialization
  intro s t1 t2 t3 u hpolicy hfull hhib h1 h2 h3 hu
  obtain ⟨hmode1, -, hhib1, hcfg1⟩ := exec_setmode_cases (by rw [hfull]; nofun) h1
  obtain ⟨hmode2, hoff2, hhib2, hcfg2⟩ := exec_setmode_cases (by rw [hmode1]; nofun) h2
  have hcfg : t2.cfg = s.cfg := hcfg2.trans hcfg1
  have hnopulse : t2.needsPulse = false := by rw [State.needsPulse, hcfg, hpolicy, hhib2, hhib1, hhib]; rfl
  obtain ⟨es, htrace, hsent⟩ := exec_appends h3
  obtain ⟨esu, htraceu, hsentu⟩ := exec_appends hu
  have hes : commandEvents es = seqEvents s.cfg (s.cfg.initSeq.full ++ powerSeq s.cfg.ducPon) := by
    rw [hsent]
    change t2.runInitSends = _
    rw [State.runInitSends_of_off hnopulse hoff2, hcfg, hmode2]
    rfl
  refine ⟨es, htrace, hes, ?_⟩
  rw [htraceu, hes]
  exact hsentu.trans (State.runInitSends_of_hib rfl)

/-- Settles O56: HIBERNATE sets HIB, so the next SETFRAME starts with a pulse and the whole initialization. -/
theorem hibernateForcesReinitialization : Obligations.HibernateForcesReinitialization := by
  unfold Obligations.HibernateForcesReinitialization
  intro buf x y w h s t u hs ht
  obtain ⟨hhib, -, hcfg, hmode, horient⟩ := exec_hibernate_cases hs
  obtain ⟨es, htrace, hsent⟩ := exec_appends ht
  refine ⟨es, htrace, hsent.trans ?_⟩
  have hni : ¬ t.isInitialized = true := by
    intro hi
    obtain ⟨-, -, hawake⟩ := (isInitialized_iff t).1 hi
    exact absurd (hhib.symm.trans hawake) nofun
  change t.ensureInitSends ++ _ = _
  rw [State.ensureInitSends, if_neg hni, State.runInitSends_of_hib hhib, hcfg, hmode, horient, List.append_assoc,
    ← seqEvents_append]
  rfl

/-- Settles O57: a Fast DISPLAY ends with PWROFF, which leaves INITED, so the block is initialized for the next SETFRAME. -/
theorem fastDisplayLeavesPowerOff : Obligations.FastDisplayLeavesPowerOff := by
  unfold Obligations.FastDisplayLeavesPowerOff
  intro buf x y w h s t hm ht
  obtain ⟨es, rfl, -⟩ := exec_sends ht
  have hmarked : s.marked .display = s.markPoweredOff := if_pos hm
  rw [hmarked]
  refine ⟨rfl, rfl, fun hinited hmode hhib hbuf hdom => ?_⟩
  have hi : (s.markPoweredOff.after es).isInitialized = true :=
    (isInitialized_iff _).2 ⟨hinited, hmode.trans hm.symm, hhib⟩
  rw [exec_setframe_of_isInitialized hi hbuf hdom, ← hm]
  rfl

end Sys2Proof.Machine
end

section
/-!
PROOF. What the public operations send is frames of the revision's map, each of its command's format (R81, R92).
-/

namespace Sys2Proof.Machine

open Sys2Proof

/-! ### Frames and what is sent -/

/-- Polls and sleeps are no part of a frame. -/
theorem Carries.commandEvents {c : Cfg} {fs : List Frame} {es : List Event} (h : Carries c fs es) :
    Carries c fs (commandEvents es) := by
  induction h with
  | nil => exact .nil
  | @frame f fs es _ ih =>
    rw [commandEvents_append, commandEvents_frameEvents]
    exact .frame f ih
  | rst v _ ih => exact .rst v ih
  | @wait e fs es hw _ ih =>
    have hnil : Machine.commandEvents [e] = [] :=
      commandEvents_eq_nil_of_isWait (c := c) fun e' he' => by rwa [List.mem_singleton.1 he']
    rw [← List.singleton_append, commandEvents_append, hnil]
    exact ih

/-- The frame has the opcode of a command of the map and a payload that command's format admits (R81, R92). -/
def Frame.Mapped (c : Cfg) (f : Frame) : Prop :=
  ∃ n ∈ c.commands, f.op = c.opcode n ∧ n.payloadOk f.payload = true

/-- The events carry mapped frames only. -/
def CarriesMapped (c : Cfg) (es : List Event) : Prop :=
  ∃ fs, Carries c fs es ∧ ∀ f ∈ fs, f.Mapped c

theorem CarriesMapped.nil (c : Cfg) : CarriesMapped c [] :=
  ⟨[], .nil, by simp⟩

theorem CarriesMapped.append {c : Cfg} {a b : List Event} (ha : CarriesMapped c a) (hb : CarriesMapped c b) :
    CarriesMapped c (a ++ b) := by
  obtain ⟨fs, hfs, hf⟩ := ha
  obtain ⟨gs, hgs, hg⟩ := hb
  exact ⟨fs ++ gs, hfs.append hgs, fun f hmem => (List.mem_append.1 hmem).elim (hf f) (hg f)⟩

theorem CarriesMapped.ite {c : Cfg} {p : Prop} [Decidable p] {a b : List Event} (ha : CarriesMapped c a)
    (hb : CarriesMapped c b) : CarriesMapped c (if p then a else b) := by
  split <;> assumption

theorem CarriesMapped.pulseLines (c : Cfg) : CarriesMapped c pulseLines :=
  ⟨[], .rst _ (.rst _ .nil), by simp⟩

theorem CarriesMapped.seq {c : Cfg} {q : CommandSeq} (hq : q.all c.pairOk = true) : CarriesMapped c (seqEvents c q) := by
  refine ⟨seqFrames c q, .seq c q, fun f hf => ?_⟩
  obtain ⟨p, hp, rfl⟩ := List.mem_map.1 hf
  obtain ⟨hn, hok⟩ := Bool.and_eq_true_iff.1 (List.all_eq_true.1 hq p hp)
  exact ⟨p.1, List.contains_iff_mem.1 hn, rfl, hok⟩

/-! ### The sequences the operations play -/

/-- A pair of a common command with a payload of its format is a pair of either revision (R42 (c)). -/
theorem all_pairOk_of_common {q : CommandSeq}
    (hq : q.all (fun p => Command.common.contains p.1 && p.1.payloadOk p.2) = true) (c : Cfg) : q.all c.pairOk = true := by
  refine List.all_eq_true.2 fun p hp => ?_
  obtain ⟨hn, hok⟩ := Bool.and_eq_true_iff.1 (List.all_eq_true.1 hq p hp)
  exact Bool.and_eq_true_iff.2 ⟨List.contains_iff_mem.2 (c.mem_commands_of_mem_common (List.contains_iff_mem.1 hn)), hok⟩

theorem powerSeq_ok (c : Cfg) (duc : Byte) : (powerSeq duc).all c.pairOk = true :=
  all_pairOk_of_common rfl c

theorem activateSeq_ok (c : Cfg) (duc : Byte) : (activateSeq duc).all c.pairOk = true :=
  all_pairOk_of_common rfl c

theorem ramAreaSeq_ok (c : Cfg) (o : Orientation) (r : Window) : (ramAreaSeq c o r).all c.pairOk = true :=
  all_pairOk_of_common rfl c

theorem initSeq_ok {c : Cfg} (hc : c.wellFormed = true) (m : RefreshMode) : (c.initSeq.get m).all c.pairOk = true := by
  simp only [Cfg.wellFormed, Bool.and_eq_true] at hc
  obtain ⟨⟨⟨⟨-, hfull⟩, hpart⟩, hfast⟩, -⟩ := hc
  cases m with
  | full => exact hfull
  | part => exact hpart
  | fast => exact hfast

/-- A window on the panel has at least one byte. -/
theorem Window.OnPanel.byteCount_pos {r : Window} (hr : r.OnPanel) : 0 < r.byteCount := by
  obtain ⟨-, hx, -, -, -, -, hy, -⟩ := hr
  have hcols : 0 < (r.xEnd - r.x) / 8 + 1 := by omega
  have hrows : 0 < r.yEnd - r.y + 1 := by omega
  exact Int.lt_toNat.2 (Int.mul_pos hcols hrows)

/-- A non-empty buffer and a window on the panel make the frames of WRITEFRAME of their formats (R144). -/
theorem writeFrameSeq_ok (c : Cfg) (m : RefreshMode) (o : Orientation) {buf : List Byte} {r : Window} (hbuf : buf ≠ [])
    (hr : r.OnPanel) : (writeFrameSeq c m o buf r).all c.pairOk = true := by
  have hborder : [(Command.borderWaveform, some [c.borderPartial])].all c.pairOk = true := all_pairOk_of_common rfl c
  have hdata (n : Command) (p : List Byte) (hn : n = .writeRam ∨ n = .writeRamRed) (hp : 1 ≤ p.length) :
      [(n, some p)].all c.pairOk = true := by
    refine all_pairOk_of_common ?_ c
    rcases hn with rfl | rfl <;> simpa [Command.payloadOk, Command.common] using hp
  have hram := hdata .writeRam buf (.inl rfl) (List.length_pos_of_ne_nil hbuf)
  have hred : [(Command.writeRamRed, some (List.replicate (((r.xEnd - r.x) / 8 + 1) * (r.yEnd - r.y + 1)).toNat 0x00))].all
      c.pairOk = true :=
    hdata .writeRamRed (List.replicate r.byteCount 0x00) (.inr rfl) (by rw [List.length_replicate]; exact hr.byteCount_pos)
  have harea := ramAreaSeq_ok c o r
  unfold writeFrameSeq
  cases m
  case full => simp only [reduceCtorEq, if_false, List.all_append, List.all_nil, harea, hram, Bool.and_self]
  case part => simp only [reduceCtorEq, if_true, if_false, List.all_append, List.all_nil, hborder, harea, hram, Bool.and_self]
  case fast => simp only [reduceCtorEq, if_true, if_false, List.all_append, List.all_nil, harea, hram, hred, Bool.and_self]

/-! ### The public operations -/

theorem CarriesMapped.powerOff (s : State) : CarriesMapped s.cfg s.powerOffSends :=
  .ite (.seq (powerSeq_ok ..)) (.nil _)

theorem CarriesMapped.activate (s : State) : CarriesMapped s.cfg s.activateSends :=
  .append (.seq (activateSeq_ok ..)) (.ite (.powerOff s) (.nil _))

theorem CarriesMapped.hibernate (s : State) : CarriesMapped s.cfg s.hibernateSends :=
  .append (.powerOff s) (.ite (.seq (all_pairOk_of_common rfl _)) (.nil _))

theorem CarriesMapped.refresh (s : State) (x y w h : Int) : CarriesMapped s.cfg (s.refreshSends x y w h) := by
  unfold State.refreshSends
  split
  · exact .activate s
  · split
    · exact .nil _
    · exact .append (.seq (ramAreaSeq_ok ..)) (.activate s)

theorem CarriesMapped.runInit {s : State} (hc : s.cfg.wellFormed = true) : CarriesMapped s.cfg s.runInitSends :=
  .append (.append (.ite (.pulseLines _) (.nil _)) (.seq (initSeq_ok hc _))) (.ite (.seq (powerSeq_ok ..)) (.nil _))

theorem CarriesMapped.setFrame {s : State} (hc : s.cfg.wellFormed = true) {buf : List Byte} {x y w h : Int}
    (hbuf : buf ≠ []) (hdom : frameDomain x y w h = true) : CarriesMapped s.cfg (s.setFrameSends buf x y w h) :=
  .append (.ite (.nil _) (.runInit hc)) (.seq (writeFrameSeq_ok _ _ _ hbuf (calcCoords_onPanel hdom)))

/-- What a public operation that completes sends is mapped frames and edges of the reset line. -/
theorem CarriesMapped.sent {s t : State} {i : Instr} (hc : s.cfg.wellFormed = true) (hi : i.isPublic = true)
    (h : exec i s = .next t) : CarriesMapped s.cfg (s.sent i) := by
  cases i <;> cases hi
  case init => exact .runInit hc
  case setmode => exact .ite (.nil _) (.powerOff s)
  case setorient | waitidle => exact .nil _
  case setframe =>
    obtain ⟨hbuf, hdom, -⟩ := exec_setframe_cases h
    exact .setFrame hc hbuf hdom
  case clear fill =>
    refine .setFrame hc (List.ne_nil_of_length_pos ?_) (by decide)
    rw [List.length_replicate]
    decide
  case display => exact .activate s
  case refresh => exact .refresh ..
  case hibernate | sleep => exact .hibernate s

/-- Settles O54: the frames read from what is appended are those of what is sent, and these are mapped. -/
theorem publicOperationsEmitMappedCommands : Obligations.PublicOperationsEmitMappedCommands := by
  unfold Obligations.PublicOperationsEmitMappedCommands
  intro i s t hc hi h
  obtain ⟨es, hes, hagree⟩ := exec_emits i s t h
  obtain ⟨es', htrace, hsent⟩ := exec_appends h
  obtain rfl : es' = es := List.append_cancel_left (htrace.symm.trans hagree.trace)
  obtain ⟨fs, hfs⟩ := hes.carries
  obtain ⟨gs, hgs, hmapped⟩ := CarriesMapped.sent hc hi h
  have hsame : some fs = some gs := by rw [← hfs.commandEvents.framesOf, hsent, hgs.framesOf]
  refine ⟨es', fs, htrace, hfs.framesOf, ?_⟩
  rw [Option.some.inj hsame]
  exact hmapped

end Sys2Proof.Machine
end

section
/-!
PROOF. The reference model of the controller's RAM addressing (R58): what the window frames leave in its registers, the order in
which it writes a window, and the rotation of the Inverted orientation (R133 to R135).
-/

namespace Sys2Proof.Machine

open Sys2Proof

/-! ### The window frames -/

/-- A row of the panel has a high byte of zero (R59, R84). -/
theorem rowBytes_of_row {v : Int} (h0 : 0 ≤ v) (h1 : v ≤ 199) : rowBytes v = [BitVec.ofInt 8 v, 0x00] := by
  have hhi : v / 256 = 0 := by omega
  rw [rowBytes, lo8, hi8, hhi]
  rfl

/-- A row of the panel is read back from its two bytes. -/
theorem rowOf_of_row {v : Int} (h0 : 0 ≤ v) (h1 : v ≤ 199) : rowOf (lo8 v) (hi8 v) = BitVec.ofInt 16 v := by
  have hnat : ((BitVec.ofInt 16 v).toNat : Int) = v := by
    rw [BitVec.toNat_ofInt]
    omega
  have hrow := rowOf_rowBytes (BitVec.ofInt 16 v)
  rwa [hnat] at hrow

/-- A frame of the map with a payload of its format is its command (R88). -/
theorem RefRam.onFrame_of_pairOk {c : Cfg} (hc : c.wellFormed = true) {n : Command} {p : Option (List Byte)}
    (hp : c.pairOk (n, p) = true) (m : RefRam) : m.onFrame c ⟨c.opcode n, p⟩ = m.onCommand c n (p.getD []) := by
  obtain ⟨hn, hok⟩ := Bool.and_eq_true_iff.1 hp
  rw [RefRam.onFrame, Cfg.commandAt_opcode hc (List.contains_iff_mem.1 hn)]
  exact if_pos hok

/-- The commands of a sequence played into the reference model. -/
def RefRam.onSeq (c : Cfg) : CommandSeq → RefRam → Option RefRam
  | [], m => some m
  | p :: q, m => (m.onCommand c p.1 (p.2.getD [])).bind (RefRam.onSeq c q)

theorem RefRam.onFrames_seqFrames {c : Cfg} (hc : c.wellFormed = true) {q : CommandSeq} (hq : q.all c.pairOk = true)
    (m : RefRam) : RefRam.onFrames c (seqFrames c q) m = RefRam.onSeq c q m := by
  induction q generalizing m with
  | nil => rfl
  | cons p q ih =>
    rw [List.all_cons, Bool.and_eq_true] at hq
    change (m.onFrame c ⟨c.opcode p.1, p.2⟩).bind (RefRam.onFrames c (seqFrames c q)) = _
    rw [RefRam.onFrame_of_pairOk hc hq.1, funext (ih hq.2), RefRam.onSeq]

/-- The five commands of SETRAMAREA set the registers of the window and touch no RAM (R58, R133). -/
theorem RefRam.onSeq_ramAreaSeq (c : Cfg) (o : Orientation) {r : Window} (hr : r.OnPanel) (m : RefRam) :
    RefRam.onSeq c (ramAreaSeq c o r) m = some { m with regs := regsFor c o r } := by
  obtain ⟨-, -, -, -, hrs0, hrs1, hre0, hre1⟩ := hr.corners_bounds o
  simp only [ramAreaSeq, RefRam.onSeq, RefRam.onCommand, rowBytes, Option.getD_some, Option.bind_some, List.cons_append,
    List.nil_append, rowOf_of_row hrs0 hrs1, rowOf_of_row hre0 hre1, regsFor]

/-- Settles O58: a row of the panel fits its low byte, and each frame is read as its command. -/
theorem windowFramesSetReferenceRegisters : Obligations.WindowFramesSetReferenceRegisters := by
  unfold Obligations.WindowFramesSetReferenceRegisters
  intro c r hr
  have rows (o : Orientation) :
      ramAreaSeq c o r =
        [(.dataEntryMode, some [c.dem o]),
         (.setRamXWindow, some [lo8 (r.corners o).cs, lo8 (r.corners o).ce]),
         (.setRamYWindow, some [BitVec.ofInt 8 (r.corners o).rs, 0x00, BitVec.ofInt 8 (r.corners o).re, 0x00]),
         (.setRamXCounter, some [lo8 (r.corners o).cs]),
         (.setRamYCounter, some [BitVec.ofInt 8 (r.corners o).rs, 0x00])] := by
    obtain ⟨-, -, -, -, hrs0, hrs1, hre0, hre1⟩ := hr.corners_bounds o
    rw [ramAreaSeq, rowBytes_of_row hrs0 hrs1, rowBytes_of_row hre0 hre1]
    rfl
  refine ⟨rows .normal, rows .inverted, fun o m hc => ?_⟩
  rw [RefRam.onFrames_seqFrames hc (ramAreaSeq_ok ..), RefRam.onSeq_ramAreaSeq c o hr]

/-! ### The order of the bytes of a window -/

/-- The `k`-th address written is that of the registers after `k` bytes. -/
theorem RamRegs.addresses_getElem? {n k : Nat} (hk : k < n) (r : RamRegs) :
    (RamRegs.addresses n r)[k]? = some (RamRegs.advances k r).addr := by
  induction n generalizing k r with
  | zero => exact absurd hk (Nat.not_lt_zero k)
  | succ n ih =>
    cases k with
    | zero => rfl
    | succ k => exact ih (Nat.lt_of_succ_lt_succ hk) r.advance

theorem RamRegs.advances_succ (k : Nat) (r : RamRegs) : RamRegs.advances (k + 1) r = (RamRegs.advances k r).advance := by
  induction k generalizing r with
  | zero => rfl
  | succ k ih => exact ih r.advance

/-- The registers of a window in Normal orientation with the counters `col` columns and `row` rows from its start. -/
def rasterRegs (c : Cfg) (r : Window) (col row : Int) : RamRegs :=
  { regsFor c .normal r with xc := BitVec.ofInt 8 (r.x / 8 + col), yc := BitVec.ofInt 16 (r.y + row) }

theorem rasterRegs_zero (c : Cfg) (r : Window) : rasterRegs c r 0 0 = regsFor c .normal r := by
  rw [rasterRegs, Int.add_zero, Int.add_zero]
  rfl

/-- Two integers in the range of a width are equal where their words are. -/
theorem eq_of_ofInt_eq {w : Nat} {a b : Int} (ha : 0 ≤ a) (ha' : a < 2 ^ w) (hb : 0 ≤ b) (hb' : b < 2 ^ w)
    (h : BitVec.ofInt w a = BitVec.ofInt w b) : a = b := by
  have hnat := congrArg (fun v : BitVec w => (v.toNat : Int)) h
  have hpow : ((2 ^ w : Nat) : Int) = 2 ^ w := by push_cast; rfl
  simpa only [BitVec.toNat_ofInt, hpow, Int.emod_eq_of_lt ha ha', Int.emod_eq_of_lt hb hb', Int.toNat_of_nonneg ha,
    Int.toNat_of_nonneg hb] using hnat

/-- The step of the counters in the entry mode of Normal orientation: both rise (R58, R85). -/
theorem RamRegs.advance_of_rising {r : RamRegs} (hd : r.dem = 0x03) :
    r.advance =
      if r.xc = r.xe then { r with xc := r.xs, yc := if r.yc = r.ye then r.ys else r.yc + 1 }
      else { r with xc := r.xc + 1 } := by
  have hid0 : r.dem.getLsbD 0 = true := by rw [hd]; rfl
  have hid1 : r.dem.getLsbD 1 = true := by rw [hd]; rfl
  have ham : r.dem.getLsbD 2 = false := by rw [hd]; rfl
  rw [RamRegs.advance_of_am_zero r ham, if_pos hid0, if_pos hid1]

/-- The step of the counters in the entry mode of Inverted orientation: both fall (R58, R85). -/
theorem RamRegs.advance_of_falling {r : RamRegs} (hd : r.dem = 0x00) :
    r.advance =
      if r.xc = r.xe then { r with xc := r.xs, yc := if r.yc = r.ye then r.ys else r.yc - 1 }
      else { r with xc := r.xc - 1 } := by
  have hid0 : ¬ r.dem.getLsbD 0 = true := by rw [hd]; decide
  have hid1 : ¬ r.dem.getLsbD 1 = true := by rw [hd]; decide
  have ham : r.dem.getLsbD 2 = false := by rw [hd]; rfl
  rw [RamRegs.advance_of_am_zero r ham, if_neg hid0, if_neg hid1]

theorem ofInt_add_one (w : Nat) (a : Int) : BitVec.ofInt w a + 1 = BitVec.ofInt w (a + 1) := by
  rw [BitVec.ofInt_add]
  rfl

section

variable {c : Cfg} {r : Window} {col row : Int} (hdem : c.demNormal = 0x03) (hr : r.OnPanel)
include hdem hr

/-- Inside a row of the window a data byte steps the column. -/
theorem advance_rasterRegs_col (hcol : 0 ≤ col) (hlt : col < (r.xEnd - r.x) / 8) :
    (rasterRegs c r col row).advance = rasterRegs c r (col + 1) row := by
  obtain ⟨hx0, hx, hxe, hxm, -⟩ := hr
  have hne : (rasterRegs c r col row).xc ≠ (rasterRegs c r col row).xe := by
    intro heq
    have h : r.x / 8 + col = r.xEnd / 8 := eq_of_ofInt_eq (by omega) (by omega) (by omega) (by omega) heq
    omega
  rw [RamRegs.advance_of_rising (r := rasterRegs c r col row) hdem, if_neg hne]
  simp only [rasterRegs, ofInt_add_one, Int.add_assoc]

/-- At the end of a row but the last a data byte steps the row and goes back to the first column. -/
theorem advance_rasterRegs_row (hrow : 0 ≤ row) (hlt : row < r.yEnd - r.y) :
    (rasterRegs c r ((r.xEnd - r.x) / 8) row).advance = rasterRegs c r 0 (row + 1) := by
  obtain ⟨hx0, hx, hxe, hxm, -, hy0, -, hye⟩ := hr
  have hcol : r.x / 8 + (r.xEnd - r.x) / 8 = r.xEnd / 8 := by omega
  have heq : (rasterRegs c r ((r.xEnd - r.x) / 8) row).xc = (rasterRegs c r ((r.xEnd - r.x) / 8) row).xe :=
    congrArg (BitVec.ofInt 8) hcol
  have hne : (rasterRegs c r ((r.xEnd - r.x) / 8) row).yc ≠ (rasterRegs c r ((r.xEnd - r.x) / 8) row).ye := by
    intro heq
    have h : r.y + row = r.yEnd := eq_of_ofInt_eq (by omega) (by omega) (by omega) (by omega) heq
    omega
  rw [RamRegs.advance_of_rising (r := rasterRegs c r ((r.xEnd - r.x) / 8) row) hdem, if_pos heq, if_neg hne]
  simp only [rasterRegs, ofInt_add_one, Int.add_assoc, Int.add_zero]
  rfl

/-- After `k` bytes the counters are `k mod W` columns and `k / W` rows from the start. -/
theorem advances_rasterRegs {k : Nat} (hk : k < r.byteCount) :
    RamRegs.advances k (regsFor c .normal r) =
      rasterRegs c r ((k : Int) % ((r.xEnd - r.x) / 8 + 1)) ((k : Int) / ((r.xEnd - r.x) / 8 + 1)) := by
  have hW : 0 < (r.xEnd - r.x) / 8 + 1 := by
    obtain ⟨-, hx, -⟩ := hr
    omega
  induction k with
  | zero =>
    rw [Nat.cast_zero, Int.zero_emod, Int.zero_ediv, rasterRegs_zero]
    rfl
  | succ k ih =>
    have hcol0 := Int.emod_nonneg (k : Int) hW.ne'
    have hcol1 := Int.emod_lt_of_pos (k : Int) hW
    have hrow0 : 0 ≤ (k : Int) / ((r.xEnd - r.x) / 8 + 1) := Int.ediv_nonneg (Int.natCast_nonneg k) hW.le
    have hdiv := Int.emod_add_mul_ediv (k : Int) ((r.xEnd - r.x) / 8 + 1)
    rw [RamRegs.advances_succ, ih (Nat.lt_of_succ_lt hk), Nat.cast_succ]
    generalize (k : Int) % ((r.xEnd - r.x) / 8 + 1) = col at *
    generalize (k : Int) / ((r.xEnd - r.x) / 8 + 1) = row at *
    by_cases hlt : col < (r.xEnd - r.x) / 8
    case pos =>
      obtain ⟨hq, hm⟩ := (Int.ediv_emod_unique (a := k + 1) (q := row) (r := col + 1) hW).2 ⟨by omega, by omega, by omega⟩
      rw [advance_rasterRegs_col hdem hr hcol0 hlt, hq, hm]
    case neg =>
      obtain rfl : col = (r.xEnd - r.x) / 8 := by omega
      obtain ⟨hq, hm⟩ := (Int.ediv_emod_unique (a := k + 1) (q := row + 1) (r := 0) hW).2
        ⟨by rw [← hdiv]; ring, le_refl 0, hW⟩
      have hrow1 : row < r.yEnd - r.y := by
        have hbytes : ((k + 1 : Nat) : Int) < ((r.xEnd - r.x) / 8 + 1) * (r.yEnd - r.y + 1) := Int.lt_toNat.1 hk
        have hrows : ((r.xEnd - r.x) / 8 + 1) * (row + 1) < ((r.xEnd - r.x) / 8 + 1) * (r.yEnd - r.y + 1) := by
          refine lt_of_eq_of_lt ?_ hbytes
          rw [Nat.cast_succ, ← hdiv]
          ring
        exact Int.lt_of_add_lt_add_right (lt_of_mul_lt_mul_left hrows hW.le)
      rw [advance_rasterRegs_row hdem hr hrow0 hrow1, hq, hm]

end

/-- Settles O59: the counters after k bytes, read as an address. -/
theorem normalWritesInRasterOrder : Obligations.NormalWritesInRasterOrder := by
  unfold Obligations.NormalWritesInRasterOrder
  intro c r k hdem hr hk
  rw [RamRegs.addresses_getElem? hk, advances_rasterRegs hdem hr hk]
  rfl

/-! ### The rotation of the Inverted orientation -/

/-- The registers rotated by 180°, the counters running backwards (R135, R137). -/
def RamRegs.reflect (r : RamRegs) : RamRegs where
  xs := 24 - r.xs
  xe := 24 - r.xe
  ys := 199 - r.ys
  ye := 199 - r.ye
  xc := 24 - r.xc
  yc := 199 - r.yc
  dem := 0x00

/-- A falling step is the rotation of a rising one. -/
theorem RamRegs.advance_reflect {r : RamRegs} (hd : r.dem = 0x03) : r.reflect.advance = r.advance.reflect := by
  rw [RamRegs.advance_of_rising hd, RamRegs.advance_of_falling (r := r.reflect) rfl]
  have hx : r.reflect.xc = r.reflect.xe ↔ r.xc = r.xe := sub_right_inj
  have hy : r.reflect.yc = r.reflect.ye ↔ r.yc = r.ye := sub_right_inj
  by_cases hxe : r.xc = r.xe
  case pos =>
    rw [if_pos hxe, if_pos (hx.2 hxe)]
    by_cases hye : r.yc = r.ye
    case pos =>
      rw [if_pos hye, if_pos (hy.2 hye)]
      rfl
    case neg =>
      rw [if_neg hye, if_neg (mt hy.1 hye)]
      simp only [RamRegs.reflect, sub_sub]
  case neg =>
    rw [if_neg hxe, if_neg (mt hx.1 hxe)]
    simp only [RamRegs.reflect, sub_sub]

theorem RamRegs.addresses_reflect (n : Nat) {r : RamRegs} (hd : r.dem = 0x03) :
    RamRegs.addresses n r.reflect = (RamRegs.addresses n r).map RamAddr.reflect := by
  induction n generalizing r with
  | zero => rfl
  | succ n ih =>
    rw [RamRegs.addresses, RamRegs.addresses, RamRegs.advance_reflect hd, ih (r.advance_dem.trans hd)]
    rfl

theorem ofInt_sub (w : Nat) (a b : Int) : BitVec.ofInt w (a - b) = BitVec.ofInt w a - BitVec.ofInt w b :=
  Int.cast_sub a b

/-- The registers of a window in Inverted orientation are the rotated ones (R135). -/
theorem regsFor_inverted {c : Cfg} (hi : c.demInverted = 0x00) (r : Window) :
    regsFor c .inverted r = (regsFor c .normal r).reflect := by
  have hcol (v : Int) : lo8 (Config.maxCol - v) = 24 - lo8 v := ofInt_sub 8 24 v
  have hrow (v : Int) : BitVec.ofInt 16 (Config.maxRow - v) = 199 - BitVec.ofInt 16 v := ofInt_sub 16 199 v
  simp only [regsFor, RamRegs.reflect, Window.corners, hcol, hrow, Cfg.dem, hi]

/-- Settles O60: the registers are rotated at the start, and every step keeps them so. -/
theorem invertedWritesAreRotated : Obligations.InvertedWritesAreRotated := by
  unfold Obligations.InvertedWritesAreRotated
  intro c r n hnormal hinverted _
  rw [regsFor_inverted hinverted]
  exact RamRegs.addresses_reflect n hnormal

end Sys2Proof.Machine
end
